-- ==== Sys2Proof/Word.lean ====
section
/-! DEFINITION. The word types of the block (spec/00_scope.md R7, R9). -/

namespace Sys2Proof

/-- A command word, bit 63 the most significant (spec/30_encoding.md R70). -/
abbrev CommandWord := BitVec 64

/-- A response word (spec/30_encoding.md R80). -/
abbrev ResponseWord := BitVec 64

/-- A polynomial, a table entry or a running value. The spec gives each W_MAX bits, at most 32
(spec/10_state.md R20, spec/00_scope.md R8); the bound by 2^W_MAX is part of `State.WellFormed`.
DESIGN CHOICE, safe: log entry 7. -/
abbrev Entry := BitVec 32

/-- The block's only memory, the table: entry `i` at position `i` (spec/20_memory.md R50; log entries 6 and 12). -/
abbrev Memory := List Entry

/-- Text on the host's side, as its characters in order (log entry 9). -/
abbrev Text := List Char

end Sys2Proof
end

