-- ==== Sys2Proof/Config.lean ====
section
/-! DEFINITION. What is fixed for the block: the constants of spec/00_scope.md R7 and the range and default of the
parameter W_MAX (R6). The parameter's value itself stands in `State.wMax` (log entry 1). -/

namespace Sys2Proof.Config

/-- DEFAULT_POLY (R7). -/
def defaultPoly : Entry := 0x9B

/-- DEFAULT_WIDTH (R7), in the 6 bits CFG_WIDTH is stored in (spec/10_state.md R20). -/
def defaultWidth : BitVec 6 := 8

/-- The default of the parameter W_MAX (R6). DESIGN CHOICE of the spec (D5) taken for `State.reset`, unsafe: log entry 1. -/
def defaultWMax : Nat := 16

/-- The legal values of the parameter W_MAX: the integers 1 to 32 (R6). -/
def legalWMax (w : Nat) : Bool := decide (1 ≤ w ∧ w ≤ 32)

/-- DUMP_COLUMNS (R7). -/
def dumpColumns : Nat := 16

end Sys2Proof.Config
end

