-- ==== Sys2Proof/Syntax.lean ====
section
/-! DEFINITION. The commands of PYT-CRC-CMD v1 (spec/opcode_table.json, spec/30_encoding.md R72 to R75), the completion
codes (R81), the inputs of the block, and the host's side: assembler lines (R84, R85) and the host language's values
(spec/41_checksum.md R120). -/

namespace Sys2Proof

/-- The KIND field of CALC_ELEM (spec/30_encoding.md R74). -/
inductive Kind where
  | int
  | char
  | unsup2
  | unsup3
  deriving DecidableEq, Repr

/-- The six commands (spec/30_encoding.md R75), one constructor per row of spec/opcode_table.json. The operands are the
fields of R72 as the bit vectors R73 reads them, so that every term encodes. -/
inductive Instr where
  /-- R160 -/
  | nop
  /-- R100 -/
  | config (width : BitVec 16) (poly : BitVec 32)
  /-- R140 -/
  | calcBegin (skip : BitVec 32)
  /-- R141 -/
  | calcElem (kind : Kind) (value : BitVec 32)
  /-- R142 -/
  | calcEnd
  /-- R162 -/
  | tableRead (index : BitVec 32)
  deriving DecidableEq, Repr

/-- Why a word spells no command (spec/30_encoding.md R76, R77). -/
inductive IllegalReason where
  | reservedOpcode
  | reservedBits
  deriving DecidableEq, Repr

/-- What decoding answers: a command, or Illegal (spec/30_encoding.md R78). -/
inductive Decoded where
  | command (i : Instr)
  | illegal (why : IllegalReason)
  deriving DecidableEq, Repr

/-- A row of the mask and match table (spec/30_encoding.md R79). -/
structure OpcodeRow where
  mnemonic : String
  mask : CommandWord
  matchBits : CommandWord
  deriving DecidableEq, Repr

/-- The completion codes (spec/30_encoding.md R81). -/
inductive Code where
  | ok
  | configurationError
  | unsupportedInputElement
  | skipRange
  | indexRange
  | sequenceError
  | illegalCommand
  deriving DecidableEq, Repr

/-- What the outside world gives the block (spec/60_exceptions.md R204), one after the other. -/
inductive HostInput where
  /-- A word on the command channel whose response the host takes before it does anything else
  (spec/70_reset_and_hazards.md R221). -/
  | command (w : CommandWord)
  /-- A word on the command channel whose response the host does not take with it: a later `takeResponse` takes it, or
  none does (R204). -/
  | commandOnly (w : CommandWord)
  /-- The host takes the response that waits (R204); where none waits, nothing is transferred (R220). -/
  | takeResponse
  /-- A reset (R210, R213). -/
  | reset
  deriving DecidableEq, Repr

/-- A numeric argument of a driver call: an integer, or a value that is none (spec/40_table_generator.md R107,
spec/41_checksum.md R120). -/
inductive HostNumber where
  | int (x : Int)
  | nonInteger
  deriving DecidableEq, Repr

/-- An element of the source's input before normalisation (spec/00_scope.md R13): an integer, a text value, or anything
else, a nested sequence and a non-integer number among it (spec/41_checksum.md R120). -/
inductive HostElem where
  | int (x : Int)
  | text (cs : Text)
  | other
  deriving DecidableEq, Repr

/-- The source's `input` (spec/41_checksum.md R120): an integer, a text value, a sequence, or any other value. -/
inductive HostValue where
  | int (x : Int)
  | text (cs : Text)
  | seq (es : List HostElem)
  | other
  deriving DecidableEq, Repr

/-- What the driver's `calculate` returns (spec/41_checksum.md R120). -/
inductive CalcResult where
  | checksum (v : BitVec 32)
  | unsupportedInputElement
  | invalidArgument
  deriving DecidableEq, Repr

/-- What the driver's `new` returns (spec/40_table_generator.md R107). -/
inductive NewResult where
  | engine
  | configurationError
  deriving DecidableEq, Repr

/-- A line of assembly that stands for one word (spec/30_encoding.md R84), its operands as written. -/
inductive AsmLine where
  | nop
  | config (poly width : Int)
  | calcBegin (skip : Int)
  | elemInt (value : Int)
  | elemChar (value : Int)
  | elemX2 (value : Int)
  | elemX3 (value : Int)
  | calcEnd
  | tread (index : Int)
  | word (value : Int)
  deriving DecidableEq, Repr

/-- A pseudo-instruction (spec/30_encoding.md R85), arguments left out already filled in. -/
inductive AsmPseudo where
  | construct (poly width : Int)
  | calculate (input : HostValue) (skip : Int)
  | dump
  deriving DecidableEq, Repr

/-- What one line of assembly holds: nothing but a comment, a command line, or a pseudo-instruction. -/
inductive AsmStmt where
  | blank
  | line (l : AsmLine)
  | pseudo (p : AsmPseudo)
  deriving DecidableEq, Repr

/-- The tokens of a line of assembly (spec/30_encoding.md R84, R85). -/
inductive AsmToken where
  | mnemonic (cs : Text)
  | number (x : Int)
  | char (c : Char)
  | text (cs : Text)
  | comma
  | openBracket
  | closeBracket
  deriving DecidableEq, Repr

end Sys2Proof
end

