-- ==== Sys2Proof/WellFormed.lean ====
section
/-! DEFINITION. The checks that a written command fits its encoding (spec/30_encoding.md R84: "An operand that does not
fit its field is an assembly error"). A term of `Instr` needs no check: its operands are the fields themselves. A
64-bit word that spells no command is refused by `decode` (R76, R77). -/

namespace Sys2Proof

/-- `x` fits an unsigned field of `n` bits. -/
def fitsField (n : Nat) (x : Int) : Bool := decide (0 ≤ x ∧ x < 2 ^ n)

/-- Every operand of the line fits its field (R84, with the field widths of R72). The value of `elem.i` is taken mod
2^32, so any integer does. -/
def AsmLine.wellFormed : AsmLine → Bool
  | .nop => true
  | .config poly width => fitsField 32 poly && fitsField 16 width
  | .calcBegin skip => fitsField 32 skip
  | .elemInt _ => true
  | .elemChar value => fitsField 32 value
  | .elemX2 value => fitsField 32 value
  | .elemX3 value => fitsField 32 value
  | .calcEnd => true
  | .tread index => fitsField 32 index
  | .word value => fitsField 64 value

end Sys2Proof
end

