-- ==== Sys2Proof/Decode.lean ====
section
/-! DEFINITION. Decoding and encoding of command words (spec/30_encoding.md R70 to R79). -/

namespace Sys2Proof

/-- `w[hi:lo]` as its `n = hi - lo + 1` bits from bit `lo` (spec/00_scope.md R9). -/
def slice (w : BitVec 64) (lo n : Nat) : BitVec n := w.extractLsb' lo n

/-- OP = w[63:60] (R71). -/
def opField (w : CommandWord) : BitVec 4 := slice w 60 4

/-- The name of a KIND code (R74). -/
def kindOfBits (k : BitVec 2) : Kind :=
  match k.toNat with
  | 0 => .int
  | 1 => .char
  | 2 => .unsup2
  | _ => .unsup3

/-- The code of a KIND name (R74). -/
def Kind.toBits : Kind → BitVec 2
  | .int => 0
  | .char => 1
  | .unsup2 => 2
  | .unsup3 => 3

/-- Reserved bits are never ignored: with any of them set the word is Illegal (R77). -/
def ifReservedClear (clear : Bool) (i : Instr) : Decoded :=
  if clear then .command i else .illegal .reservedBits

/-- Decoding, total on every 64-bit word (R78). -/
def decode (w : CommandWord) : Decoded :=
  match (opField w).toNat with
  | 0 => ifReservedClear (slice w 0 60 == 0) .nop
  | 1 => ifReservedClear (slice w 48 12 == 0) (.config (slice w 32 16) (slice w 0 32))
  | 2 => ifReservedClear (slice w 32 28 == 0) (.calcBegin (slice w 0 32))
  | 3 => ifReservedClear (slice w 34 26 == 0) (.calcElem (kindOfBits (slice w 32 2)) (slice w 0 32))
  | 4 => ifReservedClear (slice w 0 60 == 0) .calcEnd
  | 5 => ifReservedClear (slice w 32 28 == 0) (.tableRead (slice w 0 32))
  | _ => .illegal .reservedOpcode

/-- The opcode of a command (R75). -/
def Instr.opcode : Instr → BitVec 4
  | .nop => 0x0
  | .config _ _ => 0x1
  | .calcBegin _ => 0x2
  | .calcElem _ _ => 0x3
  | .calcEnd => 0x4
  | .tableRead _ => 0x5

/-- The word of a command, field by field from the encoding strings of R79. -/
def encode : Instr → CommandWord
  | .nop => 0x0#4 ++ 0#60
  | .config width poly => 0x1#4 ++ 0#12 ++ width ++ poly
  | .calcBegin skip => 0x2#4 ++ 0#28 ++ skip
  | .calcElem kind value => 0x3#4 ++ 0#26 ++ kind.toBits ++ value
  | .calcEnd => 0x4#4 ++ 0#60
  | .tableRead index => 0x5#4 ++ 0#28 ++ index

/-- The mnemonic of a command, as spec/opcode_table.json spells it. -/
def Instr.mnemonic : Instr → String
  | .nop => "NOP"
  | .config _ _ => "CONFIG"
  | .calcBegin _ => "CALC_BEGIN"
  | .calcElem _ _ => "CALC_ELEM"
  | .calcEnd => "CALC_END"
  | .tableRead _ => "TABLE_READ"

/-- The mask and match table (R79). -/
def opcodeRows : List OpcodeRow :=
  [ ⟨"NOP", 0xFFFFFFFFFFFFFFFF, 0x0000000000000000⟩,
    ⟨"CONFIG", 0xFFFF000000000000, 0x1000000000000000⟩,
    ⟨"CALC_BEGIN", 0xFFFFFFFF00000000, 0x2000000000000000⟩,
    ⟨"CALC_ELEM", 0xFFFFFFFC00000000, 0x3000000000000000⟩,
    ⟨"CALC_END", 0xFFFFFFFFFFFFFFFF, 0x4000000000000000⟩,
    ⟨"TABLE_READ", 0xFFFFFFFF00000000, 0x5000000000000000⟩ ]

/-- `(w and mask) == match` (R78). -/
def OpcodeRow.hits (r : OpcodeRow) (w : CommandWord) : Bool := (w &&& r.mask) == r.matchBits

/-- A table row's word of `nbits` bits, every bit above them 0: one 64-bit word, moved whole (spec/20_memory.md R54).
Log entry 14. -/
def tableWord (nbits w : Nat) : CommandWord := BitVec.ofNat 64 (w % 2 ^ nbits)

/-- The command this decoder reads from a word numbered as spec/opcode_table.json numbers it. -/
def decodeTableWord (nbits w : Nat) : Option Instr :=
  match decode (tableWord nbits w) with
  | .command i => some i
  | .illegal _ => none

end Sys2Proof
end

