-- ==== Sys2Proof/Machine/Table.lean ====
section
/-! DEFINITION. The lookup table: its generator (spec/40_table_generator.md R103, R104) and its two access primitives
(spec/20_memory.md R52, R53). -/

namespace Sys2Proof.Machine

/-- TL = 2^width, the table length (spec/00_scope.md R8). -/
def tableLength (w : Nat) : Nat := 2 ^ w

/-- MASK = 2^width - 1, the width mask (spec/00_scope.md R8). -/
def widthMask (w : Nat) : Nat := 2 ^ w - 1

/-- One bit position of R103: the top bit is bit w-1, and the shift keeps every bit (spec/00_scope.md R10). -/
def genStep (p w v : Nat) : Nat :=
  if v.testBit (w - 1) then (v <<< 1) ^^^ p else v <<< 1

/-- GenEntry(p, w, i) (R103): `w` steps from `i`, then one mask. -/
def genEntry (p w i : Nat) : Nat := ((genStep p w)^[w] i) &&& widthMask w

/-- One step of the per-step masked generator (R104). -/
def genStepHW (p w v : Nat) : Nat :=
  ((v <<< 1) &&& widthMask w) ^^^ (if v.testBit (w - 1) then p else 0)

/-- GenEntryHW(p, w, i) (R104). -/
def genEntryHW (p w i : Nat) : Nat := (genStepHW p w)^[w] i

/-- Gen(p, w) (R103): the sequence of the TL entries, entry `i` at position `i`. -/
def genTable (p : Entry) (w : Nat) : Memory :=
  (List.range' 0 (tableLength w)).map fun i => BitVec.ofNat 32 (genEntry p.toNat w i)

/-- The one form of the table's defined part: exactly TL entries, each below 2^w (spec/10_state.md R25; log entry 12). -/
def Memory.wf (w : Nat) (t : Memory) : Bool :=
  t.length == tableLength w && t.all fun e => decide (e.toNat < tableLength w)

/-- TableRead(i) (R52), `none` where its precondition fails. -/
def tableRead (t : Memory) (i : Nat) : Option Entry := t[i]?

/-- TableWrite(i, v) (R53) on a store given as a list, entry `i` at position `i`. -/
def tableWrite (t : Memory) (i : Nat) (v : Entry) : Memory := t.set i v

/-- The generation loop of R100, entry by entry from index 0, on any store. CONFIG's meaning uses `genTable`, which the
statement `WriteLoopGeneratesTable` relates to this loop. -/
def generateByWrites (p : Entry) (w : Nat) (store : Memory) : Memory :=
  (List.range (tableLength w)).foldl
    (fun t i => tableWrite t i (BitVec.ofNat 32 (genEntry p.toNat w i))) store

/-- The loop of spec/41_checksum.md R143 for `n` more bytes from position `j`, at running value `r`; `none` where a byte or
a table entry it asks for does not exist (R52's precondition). -/
def checksumLoop (t : Memory) (w : Nat) (bs : List (BitVec 8)) : Nat → Nat → Entry → Option Entry
  | 0, _, r => some r
  | n + 1, j, r =>
    match bs[j]? with
    | none => none
    | some b =>
      match tableRead t ((r.toNat ^^^ b.toNat) % tableLength w) with
      | none => none
      | some e => checksumLoop t w bs n (j + 1) e

/-- Calc(T, w, bs, k) (spec/41_checksum.md R143): positions k to n-1, from running value 0. -/
def checksumOf (t : Memory) (w : Nat) (bs : List (BitVec 8)) (k : Nat) : Option Entry :=
  checksumLoop t w bs (bs.length - k) k 0

end Sys2Proof.Machine
end

