-- ==== Sys2Proof/Machine/State.lean ====
section
/-! DEFINITION. The state of the block (spec/10_state.md R20), the model's own fields beside it, and reset
(spec/70_reset_and_hazards.md R210). -/

namespace Sys2Proof.Machine

/-- The record of R20, and four fields of the model's own: `wMax`, the parameter of the step (log entry 1);
`hostInputs`, what the host has yet to do, next first (log entry 3); `responses`, every response word the host has taken,
oldest first (log entry 4); `rspWaiting`, the response on the response channel that the host has not taken (log entry 18).
No command reads the last three. `table` holds the TL defined entries, entry `i` at position `i`; the unspecified ones at TL
and above are left out, as R26 allows (log entry 6). -/
structure State where
  wMax : Nat
  cfgWidth : BitVec 6
  cfgPoly : Entry
  table : Memory
  sessionOpen : Bool
  sessionErr : Bool
  skipRem : BitVec 32
  crcAcc : Entry
  hostInputs : List HostInput
  responses : List ResponseWord
  rspWaiting : Option ResponseWord
  deriving DecidableEq, Repr

/-- The reasons the model stops with a fault. -/
inductive Fault where
  /-- Raised by CALC_ELEM and TABLE_READ where TableRead's precondition `i < TL` fails (spec/20_memory.md R52: a
  "model-internal error; no rule reaches that fault"). It cannot be raised from a well-formed state. Safe: the model
  stops. Log entry 8. -/
  | tableIndex
  deriving DecidableEq, Repr

/-- The reasons the model refuses. -/
inductive Refusal where
  /-- An instruction without a meaning yet, by its mnemonic. No arm of `exec` answers it. Safe: the model stops. -/
  | notModelled (mnemonic : String)
  deriving DecidableEq, Repr

/-- What one command or one step answers. -/
abbrev Result := Host.Outcome State Fault Refusal

/-- The state after reset of a block whose parameter W_MAX is `w` (R210): the default engine and no session. For W_MAX
below 8 see log entry 2. -/
def State.resetFor (w : Nat) : State where
  wMax := w
  cfgWidth := Config.defaultWidth
  cfgPoly := Config.defaultPoly
  table := genTable Config.defaultPoly Config.defaultWidth.toNat
  sessionOpen := false
  sessionErr := false
  skipRem := 0
  crcAcc := 0
  hostInputs := []
  responses := []
  rspWaiting := none

/-- The state after reset, at the spec's default W_MAX = 16 (spec/00_scope.md R6; log entry 1). -/
def State.reset : State := State.resetFor Config.defaultWMax

end Sys2Proof.Machine
end

