-- ==== Sys2Proof/Machine/Operands.lean ====
section
/-! DEFINITION. Every way a command uses an operand: masking, range checks, normalisation, the lookup index. -/

namespace Sys2Proof.Machine

/-- CFG_WIDTH as the integer it holds (spec/10_state.md R22). -/
def State.width (s : State) : Nat := s.cfgWidth.toNat

/-- A width is valid exactly when 1 ≤ width ≤ W_MAX (spec/40_table_generator.md R101). -/
def widthValid (wMax width : Nat) : Bool := decide (1 ≤ width ∧ width ≤ wMax)

/-- `POLY and (2^width - 1)` (spec/40_table_generator.md R102). -/
def maskPoly (width : Nat) (poly : BitVec 32) : Entry := poly &&& BitVec.ofNat 32 (widthMask width)

/-- WIDTH in the 6 bits of CFG_WIDTH (spec/10_state.md R20). Nothing is lost for a valid width, which is at most 32. -/
def storedWidth (width : BitVec 16) : BitVec 6 := width.setWidth 6

/-- The element cannot be normalised: KIND 2 or 3 (spec/30_encoding.md R74). -/
def kindUnsupported : Kind → Bool
  | .int => false
  | .char => false
  | .unsup2 => true
  | .unsup3 => true

/-- The byte of a supported element, `VALUE and 0xFF` (spec/41_checksum.md R121). -/
def elementByte (value : BitVec 32) : BitVec 8 := value.setWidth 8

/-- `(CRC_ACC xor b) mod 2^CFG_WIDTH` (spec/41_checksum.md R141). -/
def lookupIndex (width : Nat) (acc : Entry) (b : BitVec 8) : Nat :=
  (acc.toNat ^^^ b.toNat) % tableLength width

/-- INDEX is below TL (spec/42_diagnostic.md R162). -/
def indexInRange (width : Nat) (index : BitVec 32) : Bool := decide (index.toNat < tableLength width)

end Sys2Proof.Machine
end

