-- ==== Sys2Proof/Machine/Flags.lean ====
section
/-! DEFINITION. The two status flags SESSION_OPEN and SESSION_ERR (spec/10_state.md R27, R28, R33), the only ones the
block has: every command that writes them does so through one of these. -/

namespace Sys2Proof.Machine

/-- CALC_BEGIN's flags: open, not failed (spec/41_checksum.md R140). -/
def State.openFlags (s : State) : State := { s with sessionOpen := true, sessionErr := false }

/-- An unsupported element fails the session (spec/41_checksum.md R141). -/
def State.failFlag (s : State) : State := { s with sessionErr := true }

/-- CALC_END clears both flags, whatever its outcome (spec/41_checksum.md R142). -/
def State.closeFlags (s : State) : State := { s with sessionOpen := false, sessionErr := false }

/-- Response bits [47:46]: the two flags as the state holds them (spec/30_encoding.md R80). -/
def State.flagBits (s : State) : BitVec 2 := BitVec.ofBool s.sessionOpen ++ BitVec.ofBool s.sessionErr

end Sys2Proof.Machine
end

