-- ==== Sys2Proof/Machine/Response.lean ====
section
/-! DEFINITION. The response word: its assembly (spec/30_encoding.md R80, R81) and its fields. -/

namespace Sys2Proof.Machine

/-- The value of a completion code (R81). -/
def codeBits : Code → BitVec 8
  | .ok => 0x00
  | .configurationError => 0x01
  | .unsupportedInputElement => 0x02
  | .skipRange => 0x03
  | .indexRange => 0x04
  | .sequenceError => 0x05
  | .illegalCommand => 0x06

/-- `{CODE[7:0], 0b0000, OPECHO[3:0], SESSION_OPEN, SESSION_ERR, 0[13:0], DATA[31:0]}` (R80). -/
def responseWord (code : Code) (echo : BitVec 4) (flags : BitVec 2) (data : BitVec 32) : ResponseWord :=
  codeBits code ++ 0#4 ++ echo ++ flags ++ 0#14 ++ data

/-- CODE, bits [63:56] (R80). -/
def rspCode (r : ResponseWord) : BitVec 8 := slice r 56 8

/-- OPECHO, bits [51:48] (R80, R82). -/
def rspEcho (r : ResponseWord) : BitVec 4 := slice r 48 4

/-- SESSION_OPEN, bit 47 (R80). -/
def rspOpen (r : ResponseWord) : Bool := r.getLsbD 47

/-- SESSION_ERR, bit 46 (R80). -/
def rspErr (r : ResponseWord) : Bool := r.getLsbD 46

/-- DATA, bits [31:0] (R80). -/
def rspData (r : ResponseWord) : BitVec 32 := slice r 0 32

/-- The reserved bits [55:52] and [45:32] (R80). -/
def rspReservedClear (r : ResponseWord) : Bool := slice r 52 4 == 0 && slice r 32 14 == 0

end Sys2Proof.Machine
end

