-- ==== Sys2Proof/Machine/Ops.lean ====
section
/-! DEFINITION. The named operations over the state, the end of a command (spec/00_scope.md R11) and the errors
(spec/60_exceptions.md R180, R190). -/

namespace Sys2Proof.Machine

/-- CONFIG's writes: width, polynomial and table together (spec/40_table_generator.md R100). -/
def State.setEngine (width : BitVec 6) (poly : Entry) (t : Memory) (s : State) : State :=
  { s with cfgWidth := width, cfgPoly := poly, table := t }

/-- CALC_BEGIN's writes: the flags, SKIP_REM and a running value of 0 (spec/41_checksum.md R140). -/
def State.beginSession (skip : BitVec 32) (s : State) : State :=
  { s.openFlags with skipRem := skip, crcAcc := 0 }

/-- One element of the skipped part: SKIP_REM one less (spec/41_checksum.md R141). Called only where SKIP_REM > 0, so it
never wraps (spec/10_state.md R29). -/
def State.countSkipped (s : State) : State := { s with skipRem := s.skipRem - 1 }

/-- The running value replaced by a table entry (spec/41_checksum.md R141). -/
def State.setAcc (e : Entry) (s : State) : State := { s with crcAcc := e }

/-- `respond(code, data)` (spec/00_scope.md R11): end the command and send its response word. The flags are sampled here,
after the command's writes (spec/30_encoding.md R82). -/
def respond (echo : BitVec 4) (code : Code) (data : BitVec 32) (s : State) : State :=
  { s with responses := s.responses ++ [responseWord code echo s.flagBits data] }

/-- `raise CODE` (spec/00_scope.md R11), the block's whole exception mechanism: `respond(CODE, 0)` on the state the command
found, so that every write of the command is discarded. There is no vector, saved state or return (spec/60_exceptions.md
R180, R198); the block is ready for the next command. -/
def raiseError (echo : BitVec 4) (code : Code) (s : State) : Result := .next (respond echo code 0 s)

/-- A word that spells no command: ILLEGAL_COMMAND, echoing its bits [63:60] (spec/60_exceptions.md R188). -/
def illegalWord (w : CommandWord) (s : State) : Result := raiseError (opField w) .illegalCommand s

/-- The response just given is left on the response channel, and the block holds it until it is taken
(spec/60_exceptions.md R204; log entry 18). -/
def State.holdResponse (s : State) : State :=
  { s with responses := s.responses.dropLast, rspWaiting := s.responses.getLast? }

/-- The host takes the response that waits, if one does (R204, R221). -/
def State.takeResponse (s : State) : State :=
  { s with responses := s.responses ++ s.rspWaiting.toList, rspWaiting := none }

/-- Reset at any time (spec/70_reset_and_hazards.md R210, R213): every field of the block at its reset value, whatever came
before, and a response not yet taken discarded (R211). The parameter, the inputs the host has yet to give and the responses
it has taken are not the block's state and stay. DESIGN CHOICE, safe: log entry 5. -/
def State.resetBlock (s : State) : State :=
  { State.resetFor s.wMax with hostInputs := s.hostInputs, responses := s.responses }

end Sys2Proof.Machine
end

