-- ==== Sys2Proof/Machine/Checksum.lean ====
section
/-! DEFINITION. The checksum calculator's session commands (spec/41_checksum.md). -/

namespace Sys2Proof.Machine

/-- CALC_BEGIN (R140). -/
def execCalcBegin (skip : BitVec 32) (s : State) : Result :=
  let echo := (Instr.calcBegin skip).opcode
  if s.sessionOpen then raiseError echo .sequenceError s
  else .next (respond echo .ok 0 (s.beginSession skip))

/-- One element folded into the running value (R141): `CRC_ACC <- TableRead((CRC_ACC xor b) mod 2^CFG_WIDTH)`. -/
def foldElement (echo : BitVec 4) (value : BitVec 32) (s : State) : Result :=
  match tableRead s.table (lookupIndex s.width s.crcAcc (elementByte value)) with
  | some e => .next (respond echo .ok 0 (s.setAcc e))
  | none => .fault .tableIndex

/-- CALC_ELEM (R141). -/
def execCalcElem (kind : Kind) (value : BitVec 32) (s : State) : Result :=
  let echo := (Instr.calcElem kind value).opcode
  if !s.sessionOpen then raiseError echo .sequenceError s
  else if kindUnsupported kind then .next (respond echo .unsupportedInputElement 0 s.failFlag)
  else if s.sessionErr then .next (respond echo .ok 0 s)
  else if 0 < s.skipRem.toNat then .next (respond echo .ok 0 s.countSkipped)
  else foldElement echo value s

/-- CALC_END (R142). -/
def execCalcEnd (s : State) : Result :=
  let echo := Instr.calcEnd.opcode
  if !s.sessionOpen then raiseError echo .sequenceError s
  else if s.sessionErr then .next (respond echo .unsupportedInputElement 0 s.closeFlags)
  else if 0 < s.skipRem.toNat then .next (respond echo .skipRange 0 s.closeFlags)
  else .next (respond echo .ok s.crcAcc s.closeFlags)

end Sys2Proof.Machine
end

