-- ==== Sys2Proof/Machine/Diagnostic.lean ====
section
/-! DEFINITION. The diagnostic commands (spec/42_diagnostic.md). -/

namespace Sys2Proof.Machine

/-- NOP (R160). -/
def execNop (s : State) : Result := .next (respond Instr.nop.opcode .ok 0 s)

/-- TABLE_READ (R162). -/
def execTableRead (index : BitVec 32) (s : State) : Result :=
  let echo := (Instr.tableRead index).opcode
  if !indexInRange s.width index then raiseError echo .indexRange s
  else
    match tableRead s.table index.toNat with
    | some e => .next (respond echo .ok e s)
    | none => .fault .tableIndex

end Sys2Proof.Machine
end

