-- ==== Sys2Proof/Machine/Generator.lean ====
section
/-! DEFINITION. The table generator's command (spec/40_table_generator.md). -/

namespace Sys2Proof.Machine

/-- CONFIG (R100). -/
def execConfig (width : BitVec 16) (poly : BitVec 32) (s : State) : Result :=
  let echo := (Instr.config width poly).opcode
  if s.sessionOpen then raiseError echo .sequenceError s
  else if !widthValid s.wMax width.toNat then raiseError echo .configurationError s
  else
    let p := maskPoly width.toNat poly
    .next (respond echo .ok 0 (s.setEngine (storedWidth width) p (genTable p width.toNat)))

end Sys2Proof.Machine
end

