-- ==== Sys2Proof/Machine/Dispatch.lean ====
section
/-! DEFINITION. One arm per command (spec/30_encoding.md R75). -/

namespace Sys2Proof.Machine

def exec (i : Instr) (s : State) : Host.Outcome State Fault Refusal :=
  match i with
  | .nop => Sys2Proof.Machine.execNop s
  | .config width poly => Sys2Proof.Machine.execConfig width poly s
  | .calcBegin skip => Sys2Proof.Machine.execCalcBegin skip s
  | .calcElem kind value => Sys2Proof.Machine.execCalcElem kind value s
  | .calcEnd => Sys2Proof.Machine.execCalcEnd s
  | .tableRead index => Sys2Proof.Machine.execTableRead index s

end Sys2Proof.Machine
end

