-- ==== Sys2Proof/Machine/Accept.lean ====
section
/-! DEFINITION. What the block does with one input (spec/70_reset_and_hazards.md R213, R221). -/

namespace Sys2Proof.Machine

/-- An accepted command word: decode comes first (spec/60_exceptions.md R191), then the command's rule. -/
def acceptCommand (w : CommandWord) (s : State) : Result :=
  match decode w with
  | .command i => exec i s
  | .illegal _ => illegalWord w s

/-- An accepted command word whose response is left waiting (spec/60_exceptions.md R204). -/
def acceptHeld (w : CommandWord) (s : State) : Result :=
  match acceptCommand w s with
  | .next t => .next t.holdResponse
  | .fault r => .fault r
  | .refused r => .refused r

/-- One input, already taken off `hostInputs`. -/
def serveInput (input : HostInput) (s : State) : Result :=
  match input with
  | .command w => acceptCommand w s
  | .commandOnly w => acceptHeld w s
  | .takeResponse => .next s.takeResponse
  | .reset => .next s.resetBlock

/-- The block can serve this input while a response waits: it accepts no command (R221: "The block accepts a command only
when ... no response is waiting to be taken"). -/
def servedWhileWaiting : HostInput → Bool
  | .command _ => false
  | .commandOnly _ => false
  | .takeResponse => true
  | .reset => true

/-- While a response waits: the first input the block can serve, and the inputs left. A command before it stays offered:
it is "simply not yet accepted, not lost" (R212). `none` where the host neither takes the response nor resets the block,
which then waits for good (spec/60_exceptions.md R204, spec/93_implementation_defined.md U16). -/
def firstServed : List HostInput → Option (HostInput × List HostInput)
  | [] => none
  | input :: rest =>
    if servedWhileWaiting input then some (input, rest)
    else (firstServed rest).map fun p => (p.1, input :: p.2)

/-- The next input the block serves, and the inputs left; `none` where it serves none. -/
def State.nextInput (s : State) : Option (HostInput × List HostInput) :=
  match s.rspWaiting, s.hostInputs with
  | none, [] => none
  | none, input :: rest => some (input, rest)
  | some _, inputs => firstServed inputs

/-- Take an input off `hostInputs`, leaving `rest`: for a command the position in the host's sequence moves by exactly one
(spec/10_state.md R32). -/
def State.takeInput (rest : List HostInput) (s : State) : State := { s with hostInputs := rest }

end Sys2Proof.Machine
end

