-- ==== Sys2Proof/Machine/Step.lean ====
section
/-! DEFINITION. One step: `step(S, cmd) -> (S', rsp)` of spec/10_state.md R21, with the command taken from `hostInputs`
and the response added to `responses` or left waiting. -/

namespace Sys2Proof.Machine

/-- One input served whole (R21, R221). With none it can serve the block makes no progress and keeps all its state: it is
idle (spec/60_exceptions.md R203), or it waits for a response to be taken (R204). -/
def step (s : State) : Host.Outcome State Fault Refusal :=
  match s.nextInput with
  | none => .next s
  | some (input, rest) => serveInput input (s.takeInput rest)

/-- `s` with the word as the command the host gives next, in place of what it would have given, and no response waiting. The block fetches
nothing (spec/10_state.md R32); this stands for the host's offering the word (log entry 11). -/
def State.withFetchWord (s : State) (nbits w : Nat) : State :=
  { s with hostInputs := .command (tableWord nbits w) :: s.hostInputs.tail, rspWaiting := none }

end Sys2Proof.Machine
end

