-- ==== Sys2Proof/Machine/Driver.lean ====
section
/-! DEFINITION. The host driver: what the spec makes the host do around the block. Construction
(spec/40_table_generator.md R107), the calculation call (spec/41_checksum.md R120), and the commands of a dump
(spec/42_diagnostic.md R163). -/

namespace Sys2Proof.Machine

/-- The driver's ordered list of elements, `shape(input)` (spec/41_checksum.md R120). -/
def shape : HostValue → List HostElem
  | .int x => [.int x]
  | .text cs => cs.map fun c => .text [c]
  | .seq es => es
  | .other => [.other]

/-- The one command an element is sent as (spec/41_checksum.md R120): an integer's VALUE is x mod 2^32, a character's
its code point (log entry 16), and anything else goes as `elem.x2` with VALUE 0. -/
def elementCommand : HostElem → Instr
  | .int x => .calcElem .int (BitVec.ofInt 32 x)
  | .text [c] => .calcElem .char (BitVec.ofNat 32 c.toNat)
  | .text _ => .calcElem .unsup2 0
  | .other => .calcElem .unsup2 0

/-- The commands of `calculate(engine, input, skip)`; `none` is InvalidArgument with no command issued
(spec/41_checksum.md R120, spec/60_exceptions.md R189). -/
def calculateCommands (input : HostValue) (skip : HostNumber) : Option (List Instr) :=
  match skip with
  | .nonInteger => none
  | .int k =>
    if 0 ≤ k ∧ k < 2 ^ 32 then
      some (.calcBegin (BitVec.ofInt 32 k) :: (shape input).map elementCommand ++ [.calcEnd])
    else none

/-- What the driver returns for CALC_END's response (spec/41_checksum.md R120); `none` for a code R120 does not list,
which CALC_END never answers in a session. -/
def resultOfEnd (r : ResponseWord) : Option CalcResult :=
  if rspCode r = codeBits .ok then some (.checksum (rspData r))
  else if rspCode r = codeBits .unsupportedInputElement then some .unsupportedInputElement
  else if rspCode r = codeBits .skipRange then some .invalidArgument
  else none

/-- The command of `new(polynomial, width)`; `none` is ConfigurationError with no command issued
(spec/40_table_generator.md R107). -/
def newCommand (polynomial : Int) (width : HostNumber) : Option Instr :=
  match width with
  | .nonInteger => none
  | .int w =>
    if 0 < w ∧ w < 2 ^ 16 ∧ 0 ≤ polynomial then
      some (.config (BitVec.ofInt 16 w) (BitVec.ofInt 32 polynomial))
    else none

/-- What the driver returns for CONFIG's response (spec/40_table_generator.md R107). -/
def resultOfConfig (r : ResponseWord) : Option NewResult :=
  if rspCode r = codeBits .ok then some .engine
  else if rspCode r = codeBits .configurationError then some .configurationError
  else none

/-- The commands of a dump, `tread i` for i = 0 .. TL-1 in that order (spec/42_diagnostic.md R163). -/
def dumpCommands (tl : Nat) : List Instr :=
  (List.range' 0 tl).map fun i => .tableRead (BitVec.ofNat 32 i)

/-- The TL the host knows after one more command and its response: a CONFIG that answered OK changes it
(spec/30_encoding.md R85). -/
def knownLengthAfter (tl : Nat) (w : CommandWord) (r : ResponseWord) : Nat :=
  match decode w with
  | .command (.config width _) => if rspCode r = codeBits .ok then tableLength width.toNat else tl
  | _ => tl

/-- The TL the host knows from the commands and responses, oldest first, after it knew `tl`. After a reset it knows 256:
"it is `2^width` of the last CONFIG that answered OK, or 256 after reset" (spec/30_encoding.md R85). -/
def knownLength (tl : Nat) (exchanges : List (CommandWord × ResponseWord)) : Nat :=
  exchanges.foldl (fun tl e => knownLengthAfter tl e.1 e.2) tl

/-- The host offers these commands, one after the other, and nothing else. It takes a response that still waits first: it
"must not issue the next command before that response has been taken" (spec/41_checksum.md R120). -/
def State.offer (is : List Instr) (s : State) : State :=
  { s.takeResponse with hostInputs := is.map fun i => .command (encode i) }

/-- Offer the commands and let the block serve them all, each response taken before the next command
(spec/70_reset_and_hazards.md R221). -/
def issueAll (is : List Instr) (s : State) : Result := Sys2Proof.core.run is.length (s.offer is)

/-- The driver's `calculate` against the block: its result and the state left. `none` inside is a last response R120 does
not list. -/
def calculate (input : HostValue) (skip : HostNumber) (s : State) :
    Host.Outcome (Option CalcResult × State) Fault Refusal :=
  match calculateCommands input skip with
  | none => .next (some .invalidArgument, s)
  | some is =>
    match issueAll is s with
    | .next t => .next (t.responses.getLast?.bind resultOfEnd, t)
    | .fault r => .fault r
    | .refused r => .refused r

/-- The driver's `calculate(engine, input, skip = 0)`, the skip count perhaps left out (spec/41_checksum.md R120). -/
def calculateCall (input : HostValue) (skip : Option HostNumber) (s : State) :
    Host.Outcome (Option CalcResult × State) Fault Refusal :=
  calculate input (skip.getD (.int 0)) s

/-- The driver's `new` against the block, both arguments given (spec/40_table_generator.md R107). -/
def construct (polynomial : Int) (width : HostNumber) (s : State) :
    Host.Outcome (Option NewResult × State) Fault Refusal :=
  match newCommand polynomial width with
  | none => .next (some .configurationError, s)
  | some i =>
    match issueAll [i] s with
    | .next t => .next (t.responses.getLast?.bind resultOfConfig, t)
    | .fault r => .fault r
    | .refused r => .refused r

/-- The driver's `new(polynomial, width)`: "Arguments left out take the defaults 0x9B and 8" (R107). -/
def newCall (polynomial : Option Int) (width : Option HostNumber) (s : State) :
    Host.Outcome (Option NewResult × State) Fault Refusal :=
  construct (polynomial.getD Config.defaultPoly.toNat) (width.getD (.int Config.defaultWidth.toNat)) s

end Sys2Proof.Machine
end

