-- ==== Sys2Proof/Machine/Assembler.lean ====
section
/-! DEFINITION. The assembler of the command set: lines (spec/30_encoding.md R84), pseudo-instructions (R85), and their
text. What R84 leaves open of the text is log entry 9. -/

namespace Sys2Proof.Machine

/-- The command of a line whose operands fit; `none` for `.word`, which may spell no command (R84). -/
def lineCommand : AsmLine → Option Instr
  | .nop => some .nop
  | .config poly width => some (.config (BitVec.ofInt 16 width) (BitVec.ofInt 32 poly))
  | .calcBegin skip => some (.calcBegin (BitVec.ofInt 32 skip))
  | .elemInt value => some (.calcElem .int (BitVec.ofInt 32 value))
  | .elemChar value => some (.calcElem .char (BitVec.ofInt 32 value))
  | .elemX2 value => some (.calcElem .unsup2 (BitVec.ofInt 32 value))
  | .elemX3 value => some (.calcElem .unsup3 (BitVec.ofInt 32 value))
  | .calcEnd => some .calcEnd
  | .tread index => some (.tableRead (BitVec.ofInt 32 index))
  | .word _ => none

/-- The word of a line without regard to its operands' ranges. -/
def lineWord (l : AsmLine) : CommandWord :=
  match l, lineCommand l with
  | _, some i => encode i
  | .word value, none => BitVec.ofInt 64 value
  | _, none => 0

/-- The word of a line; `none` is an assembly error, which an operand that does not fit its field is (R84). -/
def assemble (l : AsmLine) : Option CommandWord :=
  if l.wellFormed then some (lineWord l) else none

/-- The line an element of `calc`'s input is written as, after the host normalisation of spec/41_checksum.md R120. -/
def elementLine : HostElem → AsmLine
  | .int x => .elemInt x
  | .text [c] => .elemChar c.toNat
  | .text _ => .elemX2 0
  | .other => .elemX2 0

/-- The lines a pseudo-instruction expands to (R85), for the TL the host knows. -/
def expand (tl : Nat) : AsmPseudo → List AsmLine
  | .construct poly width => [.config poly width]
  | .calculate input skip => .calcBegin skip :: (shape input).map elementLine ++ [.calcEnd]
  | .dump => (List.range' 0 tl).map fun i => .tread i

/-- All lines of a statement. -/
def stmtLines (tl : Nat) : AsmStmt → List AsmLine
  | .blank => []
  | .line l => [l]
  | .pseudo p => expand tl p

/-! ### Text -/

/-- The value of a digit character in base 16 or less, in either case. -/
def digitValue (c : Char) : Option Nat :=
  if '0' ≤ c ∧ c ≤ '9' then some (c.toNat - 48)
  else if 'a' ≤ c ∧ c ≤ 'f' then some (c.toNat - 87)
  else if 'A' ≤ c ∧ c ≤ 'F' then some (c.toNat - 55)
  else none

/-- Digits in the given base, most significant first. -/
def numberFrom (base : Nat) : Nat → Text → Option Nat
  | acc, [] => some acc
  | acc, c :: cs =>
    match digitValue c with
    | some d => if d < base then numberFrom base (acc * base + d) cs else none
    | none => none

/-- A decimal integer, or `0x` followed by hexadecimal digits (R84). -/
def naturalOf (cs : Text) : Option Nat :=
  match cs with
  | '0' :: 'x' :: c :: ds => numberFrom 16 0 (c :: ds)
  | c :: ds => numberFrom 10 0 (c :: ds)
  | [] => none

/-- A number as written, with a minus sign or without one (R84: "a negative value is taken in two's complement"). -/
def integerOf (cs : Text) : Option Int :=
  match cs with
  | '-' :: ds => (naturalOf ds).map fun n => -(n : Int)
  | ds => (naturalOf ds).map fun n => (n : Int)

/-- A character a mnemonic or a number may hold. -/
def wordChar (c : Char) : Bool := c.isAlphanum || c == '.'

/-- The single quote that encloses a character operand (R84). -/
def quoteChar : Char := Char.ofNat 39

/-- The double quote that encloses a text value (R85). -/
def textQuote : Char := Char.ofNat 34

/-- A token that starts with a digit or a minus sign is a number, one that starts with a letter or a dot a mnemonic. -/
def wordToken (c : Char) (cs : Text) : Option AsmToken :=
  if c == '-' || c.isDigit then (integerOf (c :: cs)).map .number else some (.mnemonic (c :: cs))

/-- The tokens of a line, up to its end or to the `;` of a comment. The first argument bounds the number of tokens; the
line's length is always enough. `none` is a line that cannot be read. -/
def tokens : Nat → Text → Option (List AsmToken)
  | 0, [] => some []
  | 0, _ :: _ => none
  | _ + 1, [] => some []
  | n + 1, c :: cs =>
    if c == ';' then some []
    else if c == ' ' || c == '\t' then tokens n cs
    else if c == ',' then (tokens n cs).map (.comma :: ·)
    else if c == '[' then (tokens n cs).map (.openBracket :: ·)
    else if c == ']' then (tokens n cs).map (.closeBracket :: ·)
    else if c == quoteChar then
      match cs with
      | x :: q :: rest => if q == quoteChar then (tokens n rest).map (.char x :: ·) else none
      | _ => none
    else if c == textQuote then
      match cs.dropWhile (· != textQuote) with
      | _ :: rest => (tokens n rest).map (.text (cs.takeWhile (· != textQuote)) :: ·)
      | [] => none
    else if wordChar c || c == '-' then
      match wordToken c (cs.takeWhile wordChar), tokens n (cs.dropWhile wordChar) with
      | some t, some ts => some (t :: ts)
      | _, _ => none
    else none

/-- An element as written in a bracketed list (R85). -/
def elementOf : AsmToken → Option HostElem
  | .number x => some (.int x)
  | .char c => some (.text [c])
  | .text cs => some (.text cs)
  | _ => none

/-- The elements of a bracketed list after its opening bracket, and what follows its closing one. -/
def listFrom : List AsmToken → Option (List HostElem × List AsmToken)
  | [] => none
  | [_] => none
  | t :: .closeBracket :: rest => (elementOf t).map fun e => ([e], rest)
  | t :: .comma :: rest =>
    match elementOf t, listFrom rest with
    | some e, some (es, more) => some (e :: es, more)
    | _, _ => none
  | _ :: _ :: _ => none

/-- `<input>` as in the source: an integer, a character, a string or a bracketed list (R85). -/
def inputFrom : List AsmToken → Option (HostValue × List AsmToken)
  | .number x :: rest => some (.int x, rest)
  | .char c :: rest => some (.text [c], rest)
  | .text cs :: rest => some (.text cs, rest)
  | .openBracket :: .closeBracket :: rest => some (.seq [], rest)
  | .openBracket :: rest => (listFrom rest).map fun (es, more) => (.seq es, more)
  | _ => none

/-- `calc <input>` and `calc <input>, <skip>` (R85). -/
def calcStmt (ts : List AsmToken) : Option AsmStmt :=
  match inputFrom ts with
  | some (input, []) => some (.pseudo (.calculate input 0))
  | some (input, [.comma, .number skip]) => some (.pseudo (.calculate input skip))
  | _ => none

/-- The statement a line's tokens spell (R84, R85). -/
def statementOf (ts : List AsmToken) : Option AsmStmt :=
  match ts with
  | [] => some .blank
  | .mnemonic m :: args =>
    if m = ['n', 'o', 'p'] then
      match args with
      | [] => some (.line .nop)
      | _ => none
    else if m = ['c', 'o', 'n', 'f', 'i', 'g'] then
      match args with
      | [.number poly, .comma, .number width] => some (.line (.config poly width))
      | _ => none
    else if m = ['b', 'e', 'g', 'i', 'n'] then
      match args with
      | [.number skip] => some (.line (.calcBegin skip))
      | _ => none
    else if m = ['e', 'l', 'e', 'm', '.', 'i'] then
      match args with
      | [.number value] => some (.line (.elemInt value))
      | _ => none
    else if m = ['e', 'l', 'e', 'm', '.', 'c'] then
      match args with
      | [.number value] => some (.line (.elemChar value))
      | [.char c] => some (.line (.elemChar c.toNat))
      | _ => none
    else if m = ['e', 'l', 'e', 'm', '.', 'x', '2'] then
      match args with
      | [.number value] => some (.line (.elemX2 value))
      | _ => none
    else if m = ['e', 'l', 'e', 'm', '.', 'x', '3'] then
      match args with
      | [.number value] => some (.line (.elemX3 value))
      | _ => none
    else if m = ['e', 'n', 'd'] then
      match args with
      | [] => some (.line .calcEnd)
      | _ => none
    else if m = ['t', 'r', 'e', 'a', 'd'] then
      match args with
      | [.number index] => some (.line (.tread index))
      | _ => none
    else if m = ['.', 'w', 'o', 'r', 'd'] then
      match args with
      | [.number value] => some (.line (.word value))
      | _ => none
    else if m = ['c', 'o', 'n', 's', 't', 'r', 'u', 'c', 't'] then
      match args with
      | [] => some (.pseudo (.construct Config.defaultPoly.toNat Config.defaultWidth.toNat))
      | [.number poly] => some (.pseudo (.construct poly Config.defaultWidth.toNat))
      | [.number poly, .comma, .number width] => some (.pseudo (.construct poly width))
      | _ => none
    else if m = ['c', 'a', 'l', 'c'] then calcStmt args
    else if m = ['d', 'u', 'm', 'p'] then
      match args with
      | [] => some (.pseudo .dump)
      | _ => none
    else none
  | _ => none

/-- A line of text to the words it produces, for the TL the host knows; `none` is an assembly error, and then no word is
produced (R84). -/
def assembleText (tl : Nat) (text : Text) : Option (List CommandWord) :=
  match tokens text.length text with
  | none => none
  | some ts =>
    match statementOf ts with
    | none => none
    | some stmt => (stmtLines tl stmt).mapM assemble

end Sys2Proof.Machine
end

