-- ==== Sys2Proof/Machine/Dump.lean ====
section
/-! DEFINITION. The text form of the table dump, made by the host (spec/42_diagnostic.md R163, R164). -/

namespace Sys2Proof.Machine

/-- One hexadecimal digit, A to F upper case (R164). -/
def hexDigit (n : Nat) : Char :=
  if n < 10 then Char.ofNat (48 + n) else Char.ofNat (55 + n)

/-- The eight hexadecimal digits of `d`, most significant first. -/
def hexDigits (d : BitVec 32) : Text :=
  [28, 24, 20, 16, 12, 8, 4, 0].map fun lo => hexDigit (d.toNat / 2 ^ lo % 16)

/-- Hex(d) (R164): `0x` and the digits without leading zeros, 0 written `0x0`. -/
def hexText (d : BitVec 32) : Text :=
  '0' :: 'x' :: match (hexDigits d).dropWhile (· == '0') with
    | [] => ['0']
    | c :: cs => c :: cs

/-- What follows value `i` of `tl` (R163): a newline after every 16th value and after the last, else one space. -/
def dumpSeparator (tl i : Nat) : Char :=
  if (i + 1) % Config.dumpColumns = 0 ∨ i + 1 = tl then '\n' else ' '

/-- The values from position `i` on, of `tl` in all. -/
def dumpFrom (tl : Nat) : Nat → List (BitVec 32) → Text
  | _, [] => []
  | i, d :: ds => hexText d ++ dumpSeparator tl i :: dumpFrom tl (i + 1) ds

/-- Dump(d, TL) (R163), TL the number of values. -/
def dumpText (ds : List (BitVec 32)) : Text := dumpFrom ds.length 0 ds

/-- `dump_table(engine)` against the block, for the TL the host knows (spec/30_encoding.md R85): read every entry, then
render the DATA values. -/
def dumpTable (tl : Nat) (s : State) : Host.Outcome (Text × State) Fault Refusal :=
  match issueAll (dumpCommands tl) s with
  | .next t => .next (dumpText ((t.responses.drop s.takeResponse.responses.length).map rspData), t)
  | .fault r => .fault r
  | .refused r => .refused r

end Sys2Proof.Machine
end

