-- ==== Sys2Proof/Safety.lean ====
section
/-! DEFINITION. What a safe run is: well-formed states (spec/10_state.md R35) and steps that do not stop, and the vocabulary
statements use. -/

namespace Sys2Proof.Machine

/-- A well-formed state (R35), with the parameter's legal range (spec/00_scope.md R6) and the width of CRC_ACC, W_MAX bits
(R20, R30: a stale value is "of any size below 2^W_MAX"). The table invariant of R25 is that `table` is Gen of the
configuration. -/
abbrev State.WellFormed (s : State) : Prop :=
  Config.legalWMax s.wMax = true ∧
  1 ≤ s.width ∧ s.width ≤ s.wMax ∧
  s.cfgPoly.toNat < tableLength s.width ∧
  s.table = genTable s.cfgPoly s.width ∧
  s.crcAcc.toNat < tableLength s.wMax ∧
  (s.sessionOpen = true → s.crcAcc.toNat < tableLength s.width) ∧
  (s.sessionErr = true → s.sessionOpen = true)

/-- A command is legal in a session state (spec/60_exceptions.md R196). -/
def sequenceLegal (sessionOpen : Bool) : Instr → Bool
  | .nop => true
  | .config _ _ => !sessionOpen
  | .calcBegin _ => !sessionOpen
  | .calcElem _ _ => sessionOpen
  | .calcEnd => sessionOpen
  | .tableRead _ => true

/-- A word that spells no command: a reserved OP, or a reserved bit of the OP's format set (spec/30_encoding.md R72, R76,
R77). Written from the formats, not from `decode`. -/
abbrev reservedWord (w : CommandWord) : Prop :=
  6 ≤ (slice w 60 4).toNat ∨
  (slice w 60 4 = 0 ∧ slice w 0 60 ≠ 0) ∨
  (slice w 60 4 = 1 ∧ slice w 48 12 ≠ 0) ∨
  (slice w 60 4 = 2 ∧ slice w 32 28 ≠ 0) ∨
  (slice w 60 4 = 3 ∧ slice w 34 26 ≠ 0) ∨
  (slice w 60 4 = 4 ∧ slice w 0 60 ≠ 0) ∨
  (slice w 60 4 = 5 ∧ slice w 32 28 ≠ 0)

/-- The commands of one session: CALC_BEGIN, one CALC_ELEM per element, CALC_END (spec/41_checksum.md R144). -/
def sessionCommands (skip : BitVec 32) (es : List (Kind × BitVec 32)) : List Instr :=
  .calcBegin skip :: es.map (fun e => .calcElem e.1 e.2) ++ [.calcEnd]

/-- The two states hold the same engine: configuration and table (spec/00_scope.md R13), and the same parameter. -/
abbrev sameEngine (s t : State) : Prop :=
  t.wMax = s.wMax ∧ t.cfgWidth = s.cfgWidth ∧ t.cfgPoly = s.cfgPoly ∧ t.table = s.table

end Sys2Proof.Machine
end

