-- ==== Sys2Proof/Certificates/Slice0/Obligations.lean ====
section
/-! DEFINITION. The statements for the provers, from the numbered rules of spec/. Every statement about a state holds for
every value of the parameter W_MAX that `State.WellFormed` allows (1 to 32), or names the bound it needs. -/

open Sys2Proof Sys2Proof.Machine

/-! ### Encoding and decoding -/

/-- Decoding the word of any command, with every operand at every value, gives the command back. -/
def Obligations.DecodeOfEncode : Prop := ∀ i : Instr, decode (encode i) = .command i

/-- R78: the decoder's six lines and its last one, the mask and match form, disjoint rows, and encoding as the inverse. R78
answers Illegal alone; which reason the model's Illegal carries is the model's choice, log entry 15. -/
def Obligations.DecodeIsTotalDisjointInvertible : Prop :=
  ∀ w : CommandWord,
    (slice w 60 4 = 0x0 →
      decode w = if slice w 0 60 = 0 then .command .nop else .illegal .reservedBits) ∧
    (slice w 60 4 = 0x1 →
      decode w = if slice w 48 12 = 0 then .command (.config (slice w 32 16) (slice w 0 32))
        else .illegal .reservedBits) ∧
    (slice w 60 4 = 0x2 →
      decode w = if slice w 32 28 = 0 then .command (.calcBegin (slice w 0 32)) else .illegal .reservedBits) ∧
    (slice w 60 4 = 0x3 →
      decode w = if slice w 34 26 = 0 then .command (.calcElem (kindOfBits (slice w 32 2)) (slice w 0 32))
        else .illegal .reservedBits) ∧
    (slice w 60 4 = 0x4 →
      decode w = if slice w 0 60 = 0 then .command .calcEnd else .illegal .reservedBits) ∧
    (slice w 60 4 = 0x5 →
      decode w = if slice w 32 28 = 0 then .command (.tableRead (slice w 0 32)) else .illegal .reservedBits) ∧
    (6 ≤ (slice w 60 4).toNat → decode w = .illegal .reservedOpcode) ∧
    (∀ r ∈ opcodeRows, r.hits w = true ↔ ∃ i, decode w = .command i ∧ i.mnemonic = r.mnemonic) ∧
    (∀ r ∈ opcodeRows, ∀ r' ∈ opcodeRows, r.hits w = true → r'.hits w = true → r = r') ∧
    (∀ i, decode w = .command i → encode i = w)

/-- R79: each command's word as a number built from its fields, and the mask and match table. -/
def Obligations.CommandWordsAsNumbers : Prop :=
  (encode .nop).toNat = 0 ∧
  (∀ (width : BitVec 16) (poly : BitVec 32),
    (encode (.config width poly)).toNat = 1 * 2 ^ 60 + width.toNat * 2 ^ 32 + poly.toNat) ∧
  (∀ skip : BitVec 32, (encode (.calcBegin skip)).toNat = 2 * 2 ^ 60 + skip.toNat) ∧
  (∀ (kind : Kind) (value : BitVec 32),
    (encode (.calcElem kind value)).toNat = 3 * 2 ^ 60 + kind.toBits.toNat * 2 ^ 32 + value.toNat) ∧
  (encode .calcEnd).toNat = 4 * 2 ^ 60 ∧
  (∀ index : BitVec 32, (encode (.tableRead index)).toNat = 5 * 2 ^ 60 + index.toNat) ∧
  opcodeRows.map (fun r => (r.mnemonic, r.mask, r.matchBits)) =
    [("NOP", 0xFFFFFFFFFFFFFFFF, 0x0000000000000000), ("CONFIG", 0xFFFF000000000000, 0x1000000000000000),
     ("CALC_BEGIN", 0xFFFFFFFF00000000, 0x2000000000000000), ("CALC_ELEM", 0xFFFFFFFC00000000, 0x3000000000000000),
     ("CALC_END", 0xFFFFFFFFFFFFFFFF, 0x4000000000000000), ("TABLE_READ", 0xFFFFFFFF00000000, 0x5000000000000000)]

/-- R74: the four KIND codes and which of them are unsupported. -/
def Obligations.KindCodes : Prop :=
  kindOfBits 0b00 = .int ∧ kindOfBits 0b01 = .char ∧ kindOfBits 0b10 = .unsup2 ∧ kindOfBits 0b11 = .unsup3 ∧
  (∀ (k : BitVec 2) (value : BitVec 32), decode (0x3#4 ++ 0#26 ++ k ++ value) = .command (.calcElem (kindOfBits k) value)) ∧
  (∀ k : BitVec 2, kindUnsupported (kindOfBits k) = true ↔ k = 0b10 ∨ k = 0b11)

/-- The words of the spec's own round trip vector decode to the commands they stand for (95_test_vectors.md V-X16, written
out from R72). -/
def Obligations.SampleWordsDecode : Prop :=
  decode 0x0000000000000000 = .command .nop ∧
  decode 0x100000080000009B = .command (.config 8 0x9B) ∧
  decode 0x2000000000000003 = .command (.calcBegin 3) ∧
  decode 0x3000000000000031 = .command (.calcElem .int 0x31) ∧
  decode 0x3000000100000061 = .command (.calcElem .char 0x61) ∧
  decode 0x4000000000000000 = .command .calcEnd ∧
  decode 0x5000000000000001 = .command (.tableRead 1)

/-! ### The step -/

/-- With no response waiting (log entry 18), when the next input is a word that decodes to a command, a step is that command on the state with the input taken. -/
def Obligations.StepRunsDecodedCommand : Prop :=
  ∀ (s : State) (w : CommandWord) (rest : List HostInput) (i : Instr),
    s.rspWaiting = none → s.hostInputs = .command w :: rest → decode w = .command i →
      step s = exec i { s with hostInputs := rest }

/-- `withFetchWord` places a word, and takes away a response that waits, so that the very next step runs the command the word
spells (log entry 11). -/
def Obligations.FetchWordRunsNext : Prop :=
  ∀ (s : State) (nbits w : Nat) (i : Instr), decodeTableWord nbits w = some i →
    step (s.withFetchWord nbits w) = exec i { s with hostInputs := s.hostInputs.tail, rspWaiting := none }

/-- With no input pending a step changes nothing (R203: "Between commands it is idle, and all state survives idleness").
That such a step exists is the model's choice, log entry 3. -/
def Obligations.IdleStepKeepsState : Prop := ∀ s : State, s.hostInputs = [] → step s = .next s

/-- What a response that is not taken does (R204, R222, 93_implementation_defined.md U16). A command whose response the host
leaves does what it does, and its response waits; while one waits and the host gives commands only, every run stays where
it is; when the host takes it, it is the response given, and the commands offered meanwhile stay in their order; taking
where none waits does nothing. That the waiting response is a field of State, and the forms of the inputs, are the model's
choice, log entry 18. -/
def Obligations.UntakenResponseStopsBlock : Prop :=
  (∀ (s : State) (w : CommandWord) (rest : List HostInput), s.WellFormed → s.rspWaiting = none →
    s.hostInputs = .commandOnly w :: rest →
    ∃ (t : State) (r : ResponseWord), acceptCommand w { s with hostInputs := rest } = .next t ∧
      t.responses = s.responses ++ [r] ∧ step s = .next { t with responses := s.responses, rspWaiting := some r }) ∧
  (∀ (s : State) (r : ResponseWord), s.rspWaiting = some r →
    (∀ input ∈ s.hostInputs, ∃ w, input = .command w ∨ input = .commandOnly w) →
    ∀ n, Sys2Proof.core.run n s = .next s) ∧
  (∀ (s : State) (r : ResponseWord) (offered rest : List HostInput), s.rspWaiting = some r →
    (∀ input ∈ offered, ∃ w, input = .command w ∨ input = .commandOnly w) →
    s.hostInputs = offered ++ .takeResponse :: rest →
    step s = .next { s with
      hostInputs := offered ++ rest, responses := s.responses ++ [r], rspWaiting := none }) ∧
  (∀ (s : State) (rest : List HostInput), s.rspWaiting = none → s.hostInputs = .takeResponse :: rest →
    step s = .next { s with hostInputs := rest })

/-- R76, R77, R188: exactly the words with a reserved OP or a reserved bit set spell no command. Such a word is answered
with ILLEGAL_COMMAND, echoing its bits [63:60], and changes no state; the answer ILLEGAL_COMMAND is given to no other
word. -/
def Obligations.IllegalWordsAnswerIllegalCommand : Prop :=
  (∀ w : CommandWord, reservedWord w ↔ ∀ i, decode w ≠ .command i) ∧
  (∀ (s : State) (w : CommandWord) (rest : List HostInput),
    s.rspWaiting = none → s.hostInputs = .command w :: rest → reservedWord w →
      step s = .next { s with
        hostInputs := rest,
        responses := s.responses ++ [responseWord .illegalCommand (slice w 60 4) s.flagBits 0] }) ∧
  (∀ (s t : State) (w : CommandWord) (rest : List HostInput) (r : ResponseWord),
    s.rspWaiting = none → s.hostInputs = .command w :: rest → step s = .next t → t.responses = s.responses ++ [r] →
      rspCode r = 0x06 → reservedWord w)

/-- R80, R82: every command word the block accepts, an illegal one included, gets exactly one response, added after the earlier ones, whose
fields are as R80 lays them out, which echoes the word's bits [63:60], and whose flags are those of the state after the
command. The host takes it with the command; one it leaves waiting is in UntakenResponseStopsBlock. -/
def Obligations.EveryWordGetsOneResponse : Prop :=
  ∀ (s : State) (w : CommandWord) (rest : List HostInput), s.WellFormed → s.rspWaiting = none →
    s.hostInputs = .command w :: rest →
    ∃ (t : State) (c : Code) (data : BitVec 32) (r : ResponseWord),
      step s = .next t ∧ t.hostInputs = rest ∧ t.responses = s.responses ++ [r] ∧ t.rspWaiting = none ∧
      r = codeBits c ++ 0#4 ++ slice w 60 4 ++ BitVec.ofBool t.sessionOpen ++ BitVec.ofBool t.sessionErr ++ 0#14 ++ data ∧
      rspCode r = codeBits c ∧ rspReservedClear r = true ∧ rspEcho r = slice w 60 4 ∧
      rspOpen r = t.sessionOpen ∧ rspErr r = t.sessionErr ∧ rspData r = data ∧
      (c ≠ .ok → data = 0)

/-- R83: DATA by command. Of the commands that answer OK only CALC_END carries the running value, of the session it
closes, and only TABLE_READ a table entry; every other response, and every one whose code is not OK, that to a word that
spells no command among them, carries 0. -/
def Obligations.ResponseDataByCommand : Prop :=
  (∀ (s t : State) (w : CommandWord), reservedWord w → acceptCommand w s = .next t →
    ∃ r, t.responses = s.responses ++ [r] ∧ rspCode r ≠ 0x00 ∧ rspData r = 0) ∧
  ∀ (s t : State) (i : Instr), exec i s = .next t →
    ∃ r, t.responses = s.responses ++ [r] ∧
      (rspCode r ≠ 0x00 → rspData r = 0) ∧
      (rspCode r = 0x00 →
        match i with
        | .nop => rspData r = 0
        | .config _ _ => rspData r = 0
        | .calcBegin _ => rspData r = 0
        | .calcElem _ _ => rspData r = 0
        | .calcEnd => rspData r = s.crcAcc ∧ t.sessionOpen = false
        | .tableRead index => tableRead s.table index.toNat = some (rspData r))

/-- A run over n command words from a well-formed state takes them all, gives n responses, in the order of the words
(R221, R226), and ends in a well-formed state. -/
def Obligations.RunAnswersEveryWordInOrder : Prop :=
  ∀ (s : State) (ws : List CommandWord), s.WellFormed → s.rspWaiting = none → s.hostInputs = ws.map .command →
    ∃ (t : State) (rs : List ResponseWord), Sys2Proof.core.run ws.length s = .next t ∧ t.hostInputs = [] ∧
      t.responses = s.responses ++ rs ∧ rs.map rspEcho = ws.map (fun w => slice w 60 4) ∧ t.WellFormed

/-! ### Reset -/

/-- R210: the reset state's fields, and that `config 0x9B, 8` with no session open has exactly reset's effect on engine and
session flags. -/
def Obligations.ResetIsDefaultEngine : Prop :=
  (∀ wMax : Nat,
    (State.resetFor wMax).cfgWidth = 8 ∧ (State.resetFor wMax).cfgPoly = 0x9B ∧
    (State.resetFor wMax).table.length = 256 ∧
    (∀ i, i < 256 → ∃ e, (State.resetFor wMax).table[i]? = some e ∧ e.toNat = genEntry 0x9B 8 i) ∧
    (State.resetFor wMax).sessionOpen = false ∧ (State.resetFor wMax).sessionErr = false ∧
    (State.resetFor wMax).skipRem = 0 ∧ (State.resetFor wMax).crcAcc = 0) ∧
  (∀ s : State, s.WellFormed → s.sessionOpen = false → 8 ≤ s.wMax →
    ∃ t, exec (.config 8 0x9B) s = .next t ∧ sameEngine (State.resetFor s.wMax) t ∧
      t.sessionOpen = false ∧ t.sessionErr = false)

/-- The reset state, that of the spec's default W_MAX of 16 (log entry 1), is well-formed (R35), as it is for every W_MAX
that can hold the default width. That W_MAX below 8 is left out is log entry 2. -/
def Obligations.ResetIsWellFormed : Prop :=
  State.reset = State.resetFor 16 ∧ State.reset.WellFormed ∧ ∀ wMax, 8 ≤ wMax → wMax ≤ 32 → (State.resetFor wMax).WellFormed

/-- A reset input leaves every field of the block at its reset value, whatever came before (R213), and gives no response. A
response that waits does not keep it off and is discarded (R211); the commands offered before it meanwhile stay offered
(R212). That reset is an input of the list, and what stays, is the model's choice, log entries 5 and 18. -/
def Obligations.ResetInputRestoresDefaultEngine : Prop :=
  (∀ (s : State) (rest : List HostInput), s.hostInputs = .reset :: rest →
    step s = .next { State.resetFor s.wMax with hostInputs := rest, responses := s.responses }) ∧
  (∀ (s : State) (offered rest : List HostInput), s.rspWaiting ≠ none →
    (∀ input ∈ offered, ∃ w, input = .command w ∨ input = .commandOnly w) → s.hostInputs = offered ++ .reset :: rest →
    step s = .next { State.resetFor s.wMax with hostInputs := offered ++ rest, responses := s.responses })

/-! ### Invariants of every step -/

/-- R35's second half for the whole machine: every step from a well-formed state leads to a well-formed state (with 8 ≤
W_MAX where the step is a reset, log entry 2). -/
def Obligations.StepKeepsWellFormed : Prop :=
  ∀ s t : State, s.WellFormed → (8 ≤ s.wMax ∨ ∀ rest, s.nextInput ≠ some (.reset, rest)) → step s = .next t →
    t.WellFormed

/-- No step from a well-formed state stops: TableRead's fault is not reached (R52), and no command is refused (R223). -/
def Obligations.WellFormedStepGoesOn : Prop := ∀ s : State, s.WellFormed → ∃ t, step s = .next t

/-- R25: after every step from a well-formed state the table has exactly TL entries, entry i is Gen's, and every one is
below 2^CFG_WIDTH. -/
def Obligations.TableIsGenOfConfiguration : Prop :=
  ∀ s t : State, s.WellFormed → step s = .next t →
    t.table.length = 2 ^ t.width ∧
    ∀ i, i < 2 ^ t.width →
      ∃ e, t.table[i]? = some e ∧ e.toNat = genEntry t.cfgPoly.toNat t.width i ∧ e.toNat < 2 ^ t.width

/-- Every step keeps the table's one form (log entry 12): TL entries, each below 2^CFG_WIDTH, from any state that has it
and a width of at most 32. -/
def Obligations.StepKeepsTableForm : Prop :=
  ∀ s t : State, s.wMax ≤ 32 → Memory.wf s.width s.table = true → step s = .next t →
    Memory.wf t.width t.table = true

/-- No step changes the parameter W_MAX (R6; that it stands in State is log entry 1). -/
def Obligations.ParameterNeverChanges : Prop := ∀ s t : State, step s = .next t → t.wMax = s.wMax

/-- Only a CONFIG that answers OK writes CFG_WIDTH, CFG_POLY or the table (R22, R23, R24): for every other command, and for
a refused CONFIG, all three are unchanged and every index of the table reads as before. -/
def Obligations.OnlyConfigWritesEngine : Prop :=
  ∀ (s t : State) (i : Instr) (r : ResponseWord), exec i s = .next t → t.responses = s.responses ++ [r] →
    ((∀ width poly, i ≠ .config width poly) ∨ rspCode r ≠ 0x00) →
      t.cfgWidth = s.cfgWidth ∧ t.cfgPoly = s.cfgPoly ∧ ∀ j, tableRead t.table j = tableRead s.table j

/-- SESSION_OPEN becomes 1 only by a CALC_BEGIN with none open and 0 only by CALC_END; SESSION_ERR becomes 1 only by an
unsupported element in a session and 0 only by CALC_BEGIN and CALC_END (R27, R28). -/
def Obligations.SessionFlagsAfterCommand : Prop :=
  ∀ (s t : State) (i : Instr), exec i s = .next t →
    match i with
    | .nop => t.sessionOpen = s.sessionOpen ∧ t.sessionErr = s.sessionErr
    | .config _ _ => t.sessionOpen = s.sessionOpen ∧ t.sessionErr = s.sessionErr
    | .calcBegin _ => t.sessionOpen = true ∧ t.sessionErr = (s.sessionOpen && s.sessionErr)
    | .calcElem kind _ =>
      t.sessionOpen = s.sessionOpen ∧ t.sessionErr = (s.sessionErr || (s.sessionOpen && kindUnsupported kind))
    | .calcEnd => t.sessionOpen = false ∧ t.sessionErr = (!s.sessionOpen && s.sessionErr)
    | .tableRead _ => t.sessionOpen = s.sessionOpen ∧ t.sessionErr = s.sessionErr

/-- SKIP_REM is loaded by CALC_BEGIN, goes down by exactly one where an element is skipped, never below 0, and is otherwise
unchanged (R29). -/
def Obligations.SkipRemNeverWraps : Prop :=
  ∀ (s t : State) (i : Instr), exec i s = .next t →
    t.skipRem = s.skipRem ∨
    (∃ skip, i = .calcBegin skip ∧ t.skipRem = skip) ∨
    (∃ kind value, i = .calcElem kind value ∧ s.skipRem.toNat = t.skipRem.toNat + 1)

/-! ### CONFIG and the generator -/

/-- R102, R103: with no session open and a width from 1 to W_MAX, CONFIG answers OK, stores the width and POLY's low
`width` bits, and leaves a table of 2^width entries, entry i being GenEntry(p, width, i), each below 2^width. Nothing else
changes. -/
def Obligations.ConfigInstallsEngine : Prop :=
  ∀ (s : State) (width : BitVec 16) (poly : BitVec 32),
    s.wMax ≤ 32 → s.sessionOpen = false → 1 ≤ width.toNat → width.toNat ≤ s.wMax →
      ∃ (w6 : BitVec 6) (p : Entry) (tbl : Memory),
        exec (.config width poly) s = .next { s with
          cfgWidth := w6, cfgPoly := p, table := tbl,
          responses := s.responses ++ [responseWord .ok 0x1 s.flagBits 0] } ∧
        w6.toNat = width.toNat ∧ p.toNat = poly.toNat &&& (2 ^ width.toNat - 1) ∧ tbl.length = 2 ^ width.toNat ∧
        ∀ i, i < 2 ^ width.toNat →
          ∃ e, tableRead tbl i = some e ∧ e.toNat = genEntry p.toNat width.toNat i ∧ e.toNat < 2 ^ width.toNat

/-- R182: CONFIG with no session open answers CONFIGURATION_ERROR for WIDTH 0 and for WIDTH above W_MAX, with DATA 0 and no
state changed; nothing else answers it. -/
def Obligations.ConfigRefusesInvalidWidth : Prop :=
  (∀ (s : State) (width : BitVec 16) (poly : BitVec 32),
    s.sessionOpen = false → (width.toNat = 0 ∨ s.wMax < width.toNat) →
      exec (.config width poly) s = .next { s with
        responses := s.responses ++ [responseWord .configurationError 0x1 s.flagBits 0] }) ∧
  (∀ (s t : State) (i : Instr) (r : ResponseWord),
    exec i s = .next t → t.responses = s.responses ++ [r] → rspCode r = 0x01 →
      ∃ width poly, i = .config width poly ∧ s.sessionOpen = false ∧ (width.toNat = 0 ∨ s.wMax < width.toNat)) ∧
  (∀ (s t : State) (w : CommandWord), reservedWord w → acceptCommand w s = .next t →
    ∀ r, t.responses = s.responses ++ [r] → rspCode r ≠ 0x01)

/-- R106: two CONFIGs that answer OK with the same width and the same effective polynomial leave the same table, whatever
the states were before. -/
def Obligations.ConfigIsDeterministic : Prop :=
  ∀ (s s' t t' : State) (width : BitVec 16) (poly poly' : BitVec 32) (r r' : ResponseWord),
    s.wMax ≤ 32 → poly.toNat % 2 ^ width.toNat = poly'.toNat % 2 ^ width.toNat →
    exec (.config width poly) s = .next t → exec (.config width poly') s' = .next t' →
    t.responses = s.responses ++ [r] → t'.responses = s'.responses ++ [r'] → rspCode r = 0x00 → rspCode r' = 0x00 →
      t.table = t'.table ∧ t.cfgPoly = t'.cfgPoly ∧ t.cfgWidth = t'.cfgWidth

/-- R104: the generator that masks at every step gives the same entry as the one that masks once. -/
def Obligations.MaskedGeneratorAgrees : Prop :=
  ∀ w p i : Nat, 1 ≤ w → p < 2 ^ w → i < 2 ^ w → genEntryHW p w i = genEntry p w i

/-- R105: entry 0 is 0, entry 1 is the polynomial, the table is linear under xor, and polynomial 0 gives zeros. -/
def Obligations.GeneratorProperties : Prop :=
  ∀ w p : Nat, 1 ≤ w → p < 2 ^ w →
    genEntry p w 0 = 0 ∧ genEntry p w 1 = p ∧
    (∀ i j, i < 2 ^ w → j < 2 ^ w → genEntry p w (i ^^^ j) = genEntry p w i ^^^ genEntry p w j) ∧
    (∀ i, i < 2 ^ w → genEntry 0 w i = 0)

/-- R100's loop of TableWrites on a store of at least 2^width entries, such as the physical one of 2^W_MAX (R51), leaves
Gen(p, width) in entries 0..TL-1 and every entry at TL and above as it was. -/
def Obligations.WriteLoopGeneratesTable : Prop :=
  ∀ (p : Entry) (w : Nat) (store : Memory), tableLength w ≤ store.length →
    (generateByWrites p w store).take (tableLength w) = genTable p w ∧
    (generateByWrites p w store).drop (tableLength w) = store.drop (tableLength w)

/-! ### Session commands -/

/-- CALC_BEGIN with no session open (R140): the session is open and not failed, SKIP_REM is SKIP, the running value is 0,
the answer is OK with SESSION_OPEN 1. Nothing else changes, the table and the configuration among it. -/
def Obligations.BeginOpensSession : Prop :=
  ∀ (s : State) (skip : BitVec 32), s.sessionOpen = false →
    exec (.calcBegin skip) s = .next { s with
      sessionOpen := true, sessionErr := false, skipRem := skip, crcAcc := 0,
      responses := s.responses ++ [responseWord .ok 0x2 0b10 0] }

/-- R183: in a session, an element of KIND 2 or 3 answers UNSUPPORTED_INPUT_ELEMENT with DATA 0, sets SESSION_ERR, and
changes nothing else, in a failed session and in the skipped part too. -/
def Obligations.UnsupportedElementFailsSession : Prop :=
  ∀ (s : State) (kind : Kind) (value : BitVec 32), s.sessionOpen = true → (kind = .unsup2 ∨ kind = .unsup3) →
    exec (.calcElem kind value) s = .next { s with
      sessionErr := true,
      responses := s.responses ++ [responseWord .unsupportedInputElement 0x3 0b11 0] }

/-- A supported element in a failed session is accepted and not folded (R141): OK, and nothing changes. -/
def Obligations.FailedSessionDoesNotFold : Prop :=
  ∀ (s : State) (kind : Kind) (value : BitVec 32), s.sessionOpen = true → (kind = .int ∨ kind = .char) →
    s.sessionErr = true →
    exec (.calcElem kind value) s = .next { s with
      responses := s.responses ++ [responseWord .ok 0x3 0b11 0] }

/-- A supported element in the skipped part (R141): SKIP_REM one less, OK, nothing else changes and no table entry is
read, so any table will do. -/
def Obligations.SkippedElementCountsDown : Prop :=
  ∀ (s : State) (kind : Kind) (value : BitVec 32), s.sessionOpen = true → (kind = .int ∨ kind = .char) →
    s.sessionErr = false → s.skipRem ≠ 0 →
    ∃ k : BitVec 32, k.toNat + 1 = s.skipRem.toNat ∧
      exec (.calcElem kind value) s = .next { s with
        skipRem := k, responses := s.responses ++ [responseWord .ok 0x3 0b10 0] }

/-- R147: for every width, a supported element after the skipped part replaces the running value r by
T[(r xor b) mod 2^w], b the low byte of VALUE, the whole of r taking part and nothing shifted. OK; nothing else changes. -/
def Obligations.ElementFoldsThroughTable : Prop :=
  ∀ (s : State) (kind : Kind) (value : BitVec 32), s.WellFormed → s.sessionOpen = true →
    (kind = .int ∨ kind = .char) → s.sessionErr = false → s.skipRem = 0 →
    ∃ e : Entry, tableRead s.table ((s.crcAcc.toNat ^^^ (value.toNat &&& 0xFF)) % 2 ^ s.width) = some e ∧
      exec (.calcElem kind value) s = .next { s with
        crcAcc := e, responses := s.responses ++ [responseWord .ok 0x3 0b10 0] }

/-- R121: only VALUE[7:0] of a supported element matters, and INT and CHAR with the same low byte do the same. -/
def Obligations.ElementByteIsAllThatCounts : Prop :=
  (∀ value : BitVec 32, (elementByte value).toNat = value.toNat &&& 0xFF ∧ (elementByte value).toNat ≤ 255) ∧
  ∀ (s : State) (kind kind' : Kind) (value value' : BitVec 32),
    (kind = .int ∨ kind = .char) → (kind' = .int ∨ kind' = .char) → value.toNat % 256 = value'.toNat % 256 →
      exec (.calcElem kind value) s = exec (.calcElem kind' value') s

/-- CALC_END of a session that did not fail and skipped all it was to skip (R142): the running value is returned, with no
final xor or reflection, and the session is closed. Nothing else changes. -/
def Obligations.EndReturnsRunningValue : Prop :=
  ∀ s : State, s.sessionOpen = true → s.sessionErr = false → s.skipRem = 0 →
    exec .calcEnd s = .next { s with
      sessionOpen := false, sessionErr := false,
      responses := s.responses ++ [responseWord .ok 0x4 0b00 s.crcAcc] }

/-- R184: CALC_END with SESSION_ERR 1 answers UNSUPPORTED_INPUT_ELEMENT with DATA 0 and closes the session, whatever
SKIP_REM holds. -/
def Obligations.EndOfFailedSession : Prop :=
  ∀ s : State, s.sessionOpen = true → s.sessionErr = true →
    exec .calcEnd s = .next { s with
      sessionOpen := false, sessionErr := false,
      responses := s.responses ++ [responseWord .unsupportedInputElement 0x4 0b00 0] }

/-- CALC_END with SESSION_ERR 0 and SKIP_REM above 0 answers SKIP_RANGE with DATA 0 and closes the session (R185). -/
def Obligations.EndWithSkipLeft : Prop :=
  ∀ s : State, s.sessionOpen = true → s.sessionErr = false → s.skipRem ≠ 0 →
    exec .calcEnd s = .next { s with
      sessionOpen := false, sessionErr := false,
      responses := s.responses ++ [responseWord .skipRange 0x4 0b00 0] }

/-- R148: no session command writes the configuration or the table, every index of which reads as before; and after a
CALC_END of an open session both flags are 0. -/
def Obligations.SessionCommandsLeaveEngine : Prop :=
  ∀ (s t : State) (i : Instr),
    ((∃ skip, i = .calcBegin skip) ∨ (∃ kind value, i = .calcElem kind value) ∨ i = .calcEnd) →
    exec i s = .next t →
      sameEngine s t ∧ (∀ j, tableRead t.table j = tableRead s.table j) ∧
      (i = .calcEnd → s.sessionOpen = true → t.sessionOpen = false ∧ t.sessionErr = false)

/-! ### Diagnostic commands -/

/-- R160: NOP is the all-zero word, completes in every state, reports the two flags and changes nothing else; a word with
OP 0 and any other bit set is illegal. -/
def Obligations.NopReportsStatus : Prop :=
  encode .nop = 0 ∧
  (∀ s : State, exec .nop s = .next { s with
    responses := s.responses ++ [0#8 ++ 0#4 ++ 0#4 ++ BitVec.ofBool s.sessionOpen ++ BitVec.ofBool s.sessionErr ++ 0#46] }) ∧
  (∀ w : CommandWord, slice w 60 4 = 0 → w ≠ 0 → ∃ why, decode w = .illegal why) ∧
  (∀ wMax : Nat, ∃ t, exec .nop (State.resetFor wMax) = .next t ∧ t.responses = [0x0000000000000000])

/-- TABLE_READ of an index below TL, in a session or outside one (R162): OK with the entry as DATA, index 0 reading 0 and
index 1 CFG_POLY; nothing else changes. -/
def Obligations.TableReadReturnsEntry : Prop :=
  ∀ (s : State) (index : BitVec 32), s.WellFormed → index.toNat < 2 ^ s.width →
    ∃ e : Entry, tableRead s.table index.toNat = some e ∧
      e.toNat = genEntry s.cfgPoly.toNat s.width index.toNat ∧
      (index = 0 → e = 0) ∧ (index = 1 → e = s.cfgPoly) ∧
      exec (.tableRead index) s = .next { s with
        responses := s.responses ++ [responseWord .ok 0x5 s.flagBits e] }

/-- R186: TABLE_READ of an index at TL or above answers INDEX_RANGE with DATA 0, and no state changes; nothing else
answers INDEX_RANGE. -/
def Obligations.TableReadRefusesIndex : Prop :=
  (∀ (s : State) (index : BitVec 32), 2 ^ s.width ≤ index.toNat →
    exec (.tableRead index) s = .next { s with
      responses := s.responses ++ [responseWord .indexRange 0x5 s.flagBits 0] }) ∧
  (∀ (s t : State) (i : Instr) (r : ResponseWord),
    exec i s = .next t → t.responses = s.responses ++ [r] → rspCode r = 0x04 →
      ∃ index, i = .tableRead index ∧ 2 ^ s.width ≤ index.toNat)

/-! ### Errors over all commands -/

/-- R187, R196: a command answers SEQUENCE_ERROR exactly where the session table refuses it, with DATA 0 and no state
changed. -/
def Obligations.SessionOrderIsChecked : Prop :=
  (∀ i : Instr, (sequenceLegal false i = false ↔ (∃ kind value, i = .calcElem kind value) ∨ i = .calcEnd) ∧
    (sequenceLegal true i = false ↔ (∃ width poly, i = .config width poly) ∨ ∃ skip, i = .calcBegin skip)) ∧
  (∀ (s : State) (i : Instr), sequenceLegal s.sessionOpen i = false →
    exec i s = .next { s with responses := s.responses ++ [responseWord .sequenceError i.opcode s.flagBits 0] }) ∧
  (∀ (s t : State) (i : Instr) (r : ResponseWord), sequenceLegal s.sessionOpen i = true →
    exec i s = .next t → t.responses = s.responses ++ [r] → rspCode r ≠ 0x05)

/-- R191: the first check that fails gives the code: decoding, then session order, then the operand, then at CALC_END
SESSION_ERR before SKIP_REM. -/
def Obligations.ChecksRunInOrder : Prop :=
  ∀ (s t : State) (w : CommandWord) (rest : List HostInput) (r : ResponseWord),
    s.rspWaiting = none → s.hostInputs = .command w :: rest → step s = .next t → t.responses = s.responses ++ [r] →
    (reservedWord w → rspCode r = 0x06) ∧
    ∀ i, decode w = .command i →
      (sequenceLegal s.sessionOpen i = false → rspCode r = 0x05) ∧
      (sequenceLegal s.sessionOpen i = true →
        (∀ width poly, i = .config width poly → (width.toNat = 0 ∨ s.wMax < width.toNat) → rspCode r = 0x01) ∧
        (∀ kind value, i = .calcElem kind value → (kind = .unsup2 ∨ kind = .unsup3) → rspCode r = 0x02) ∧
        (∀ index, i = .tableRead index → 2 ^ s.width ≤ index.toNat → rspCode r = 0x04) ∧
        (i = .calcEnd → s.sessionErr = true → rspCode r = 0x02) ∧
        (i = .calcEnd → s.sessionErr = false → s.skipRem ≠ 0 → rspCode r = 0x03))

/-- R190: a response that is not OK leaves every field as it was, but that CALC_ELEM answering UNSUPPORTED_INPUT_ELEMENT
sets SESSION_ERR, and that CALC_END answering UNSUPPORTED_INPUT_ELEMENT or SKIP_RANGE clears both flags; and a whole session
that fails leaves the state before its CALC_BEGIN, up to CRC_ACC and SKIP_REM (and the host's inputs and the responses,
which are not the block's). -/
def Obligations.ErrorsLeaveStateUnchanged : Prop :=
  (∀ (s t : State) (kind : Kind) (value : BitVec 32) (r : ResponseWord),
    exec (.calcElem kind value) s = .next t → t.responses = s.responses ++ [r] → rspCode r = 0x02 →
      t = { s with sessionErr := true, responses := t.responses }) ∧
  (∀ (s t : State) (r : ResponseWord),
    exec .calcEnd s = .next t → t.responses = s.responses ++ [r] → (rspCode r = 0x02 ∨ rspCode r = 0x03) →
      t = { s with sessionOpen := false, sessionErr := false, responses := t.responses }) ∧
  (∀ (s t : State) (i : Instr) (r : ResponseWord),
    exec i s = .next t → t.responses = s.responses ++ [r] → rspCode r ≠ 0x00 →
    ¬ ((∃ kind value, i = .calcElem kind value) ∧ rspCode r = 0x02) →
    ¬ (i = .calcEnd ∧ (rspCode r = 0x02 ∨ rspCode r = 0x03)) →
      t = { s with responses := t.responses }) ∧
  (∀ (s t : State) (w : CommandWord), reservedWord w → acceptCommand w s = .next t →
    t = { s with responses := t.responses }) ∧
  (∀ (s t : State) (skip : BitVec 32) (es : List (Kind × BitVec 32)) (r : ResponseWord),
    s.WellFormed → s.sessionOpen = false → issueAll (sessionCommands skip es) s = .next t →
    t.responses.getLast? = some r → rspCode r ≠ 0x00 →
      t = { s with
        skipRem := t.skipRem, crcAcc := t.crcAcc, hostInputs := t.hostInputs, responses := t.responses,
        rspWaiting := t.rspWaiting })

/-! ### Sessions and the host driver -/

/-- R144: a session of CALC_BEGIN, elements and CALC_END, from a state with none open. CALC_END answers
UNSUPPORTED_INPUT_ELEMENT if some element is unsupported, else SKIP_RANGE if the skip count exceeds the elements, else
the reference function of R143. In every case the session is closed, and configuration and table are unchanged. -/
def Obligations.SessionComputesReferenceFunction : Prop :=
  ∀ (s : State) (skip : BitVec 32) (es : List (Kind × BitVec 32)), s.WellFormed → s.sessionOpen = false →
    ∃ (t : State) (r : ResponseWord), issueAll (sessionCommands skip es) s = .next t ∧
      t.responses.getLast? = some r ∧ sameEngine s t ∧ t.sessionOpen = false ∧ t.sessionErr = false ∧
      t.hostInputs = [] ∧
      ((∃ e ∈ es, kindUnsupported e.1 = true) → r = responseWord .unsupportedInputElement 0x4 0b00 0) ∧
      ((∀ e ∈ es, kindUnsupported e.1 = false) → es.length < skip.toNat → r = responseWord .skipRange 0x4 0b00 0) ∧
      ((∀ e ∈ es, kindUnsupported e.1 = false) → skip.toNat ≤ es.length →
        ∃ v, checksumOf s.table s.width (es.map fun e => BitVec.ofNat 8 (e.2.toNat &&& 0xFF)) skip.toNat = some v ∧
          r = responseWord .ok 0x4 0b00 v)

/-- R131: every session starts from running value 0, and nothing of one session reaches the next. From two states with the same engine and no session open, whatever
their running values and skip counts, the same session gets the same responses (after a response the driver first takes
where one waits). -/
def Obligations.SessionsAreIndependent : Prop :=
  (∀ (s t : State) (skip : BitVec 32), s.sessionOpen = false → exec (.calcBegin skip) s = .next t → t.crcAcc = 0) ∧
  ∀ (s s' t t' : State) (skip : BitVec 32) (es : List (Kind × BitVec 32)),
    sameEngine s s' → s.sessionOpen = false → s'.sessionOpen = false →
    issueAll (sessionCommands skip es) s = .next t → issueAll (sessionCommands skip es) s' = .next t' →
      t.responses.drop s.takeResponse.responses.length = t'.responses.drop s'.takeResponse.responses.length

/-- R146, R143: the reference function with skip k is the reference function of the list without its first k bytes, with
skip 0. -/
def Obligations.SkipIsExclusion : Prop :=
  ∀ (tbl : Memory) (w : Nat) (bs : List (BitVec 8)) (k : Nat), k ≤ bs.length →
    checksumOf tbl w bs k = checksumOf tbl w (bs.drop k) 0

/-- R145: when nothing remains after the skip the result is 0 and no table entry is read, so any table will do; a driver
call on an empty sequence returns 0 for any engine, in any state with no session open. -/
def Obligations.EmptyInputReturnsZero : Prop :=
  (∀ (tbl : Memory) (w : Nat) (bs : List (BitVec 8)), checksumOf tbl w bs bs.length = some 0) ∧
  (∀ (s : State) (es : List (Kind × BitVec 32)) (skip : BitVec 32), s.sessionOpen = false →
    (∀ e ∈ es, kindUnsupported e.1 = false) → es.length = skip.toNat →
    ∃ t, issueAll (sessionCommands skip es) s = .next t ∧
      t.responses.getLast? = some (responseWord .ok 0x4 0b00 0)) ∧
  (∀ s : State, s.sessionOpen = false → ∃ t, calculate (.seq []) (.int 0) s = .next (some (.checksum 0), t))

/-- The driver's `calculate` (R120, R143) on a well-formed engine with no session open returns the reference function of
its elements' bytes, when every element is an integer or a single character and the skip count is at most their number.
An integer's byte is x mod 256 (R122), a character's its code point mod 256 (R123). That a character's code point is its
Unicode scalar value, Lean's `Char.toNat`, is the model's presumption, log entry 16. A skip argument left out is 0. -/
def Obligations.DriverReturnsChecksum : Prop :=
  (∀ (input : HostValue) (s : State), calculateCall input none s = calculate input (.int 0) s) ∧
  (∀ (input : HostValue) (skip : HostNumber) (s : State), calculateCall input (some skip) s = calculate input skip s) ∧
  ∀ (s : State) (input : HostValue) (k : Nat) (bytes : List (BitVec 8)), s.WellFormed → s.sessionOpen = false →
    (shape input).map (fun e => match e with
      | .int x => some (BitVec.ofInt 8 x)
      | .text [c] => some (BitVec.ofNat 8 c.toNat)
      | .text _ => none
      | .other => none) = bytes.map some →
    k ≤ bytes.length → k < 2 ^ 32 →
    ∃ (t : State) (v : Entry), calculate input (.int k) s = .next (some (.checksum v), t) ∧
      checksumOf s.table s.width bytes k = some v ∧ sameEngine s t

/-- R149: a scalar integer and the one-element sequence of it give the same command stream, and the same result. -/
def Obligations.ScalarIsOneElementSequence : Prop :=
  ∀ (x : Int) (skip : HostNumber) (s : State),
    calculateCommands (.int x) skip = calculateCommands (.seq [.int x]) skip ∧
    calculate (.int x) skip s = calculate (.seq [.int x]) skip s

/-- R189: the driver refuses a negative, non-integer or 2^32-or-more skip with InvalidArgument, and a non-integer,
non-positive or 2^16-or-more width and a negative polynomial with ConfigurationError, each without a command. -/
def Obligations.DriverRefusesBadArguments : Prop :=
  (∀ (input : HostValue) (skip : HostNumber),
    calculateCommands input skip = none ↔ skip = .nonInteger ∨ ∃ x, skip = .int x ∧ (x < 0 ∨ 2 ^ 32 ≤ x)) ∧
  (∀ (input : HostValue) (skip : HostNumber) (s : State), calculateCommands input skip = none →
    calculate input skip s = .next (some .invalidArgument, s)) ∧
  (∀ (poly : Int) (width : HostNumber),
    newCommand poly width = none ↔
      width = .nonInteger ∨ (∃ x, width = .int x ∧ (x ≤ 0 ∨ 2 ^ 16 ≤ x)) ∨ poly < 0) ∧
  (∀ (poly : Int) (width : HostNumber) (s : State), newCommand poly width = none →
    construct poly width s = .next (some .configurationError, s))

/-- The driver's `new` (R107) for a non-negative polynomial and a positive width below 2^16, with no session open: an
engine of that width and the polynomial's low bits where the width is at most W_MAX, else ConfigurationError and the
previous engine. An argument left out is 0x9B or 8. -/
def Obligations.DriverConstructsEngine : Prop :=
  (∀ (poly : Int) (width : HostNumber) (s : State),
    newCall none none s = construct 0x9B (.int 8) s ∧ newCall (some poly) none s = construct poly (.int 8) s ∧
    newCall none (some width) s = construct 0x9B width s ∧ newCall (some poly) (some width) s = construct poly width s) ∧
  ∀ (s : State) (poly width : Int), s.WellFormed → s.sessionOpen = false → 0 ≤ poly → 1 ≤ width → width < 2 ^ 16 →
    (width ≤ s.wMax →
      ∃ t : State, construct poly (.int width) s = .next (some .engine, t) ∧ t.WellFormed ∧ t.sessionOpen = false ∧
        (t.width : Int) = width ∧ (t.cfgPoly.toNat : Int) = poly % 2 ^ width.toNat) ∧
    (s.wMax < width →
      ∃ t : State, construct poly (.int width) s = .next (some .configurationError, t) ∧ sameEngine s t)

/-! ### The dump and the assembler -/

/-- The dump's text (R163) is ceil(TL / 16) lines: line r is the hex forms of the values 16r to 16r + 15, or of those that
are left, with one space between each two, and a newline. No other newline stands in it, it ends in one when it is not
empty, and no line ends in a space. -/
def Obligations.DumpIsRowsOfSixteen : Prop :=
  ∀ ds : List (BitVec 32),
    dumpText ds = (List.range ((ds.length + 15) / 16)).flatMap (fun r =>
      [' '].intercalate (((ds.drop (16 * r)).take 16).map hexText) ++ ['\n']) ∧
    (dumpText ds).count '\n' = (ds.length + 15) / 16 ∧
    (ds ≠ [] → (dumpText ds).getLast? = some '\n') ∧
    ¬ [' ', '\n'] <:+: dumpText ds

/-- R164: Hex(d) is `0x` and digits from 0 to 9 and A to F, whose value, most significant first, is d, with no leading
zero unless d is 0, which is `0x0`. -/
def Obligations.HexTextIsMinimal : Prop :=
  ∀ d : BitVec 32, ∃ digits : Text, hexText d = '0' :: 'x' :: digits ∧ digits ≠ [] ∧
    (∀ c ∈ digits, c ∈ ['0', '1', '2', '3', '4', '5', '6', '7', '8', '9', 'A', 'B', 'C', 'D', 'E', 'F']) ∧
    numberFrom 16 0 digits = some d.toNat ∧
    (d ≠ 0 → digits.head? ≠ some '0') ∧ (d = 0 → digits = ['0'])

/-- The driver's dump reads every entry of a well-formed engine, in order, and renders exactly the table (R163). -/
def Obligations.DumpRendersTheTable : Prop :=
  ∀ s : State, s.WellFormed → ∃ t, dumpTable (2 ^ s.width) s = .next (dumpText s.table, t) ∧ sameEngine s t

/-- What the host must know for a dump (R85): after any command words, TL is 2^width of the last CONFIG that answered OK,
or what it was before, which is 256 after reset. -/
def Obligations.HostKnowsTableLength : Prop :=
  (∀ wMax : Nat, 2 ^ (State.resetFor wMax).width = 256) ∧
  ∀ (s : State) (ws : List CommandWord), s.WellFormed → s.rspWaiting = none → s.hostInputs = ws.map .command →
    ∃ (t : State) (rs : List ResponseWord), Sys2Proof.core.run ws.length s = .next t ∧ t.responses = s.responses ++ rs ∧
      rs.length = ws.length ∧ knownLength (2 ^ s.width) (ws.zip rs) = 2 ^ t.width

/-- A line whose operands fit their fields assembles to a word that decodes to its command, with the operands' values; a
line with an operand that does not fit gives no word (R84). First the six example lines of R84 and their words. -/
def Obligations.AssembledLinesDecode : Prop :=
  (assemble (.config 0x9B 8) = some 0x100000080000009B ∧ assemble (.calcBegin 3) = some 0x2000000000000003 ∧
   assemble (.elemInt 0x31) = some 0x3000000000000031 ∧ assemble (.elemChar 0x61) = some 0x3000000100000061 ∧
   assemble .calcEnd = some 0x4000000000000000 ∧ assemble (.tread 1) = some 0x5000000000000001) ∧
  (∀ (l : AsmLine) (i : Instr), l.wellFormed = true → lineCommand l = some i →
    ∃ w, assemble l = some w ∧ decode w = .command i) ∧
  (∀ poly width : Int, 0 ≤ poly → poly < 2 ^ 32 → 0 ≤ width → width < 2 ^ 16 →
    ∃ (w : CommandWord) (wd : BitVec 16) (p : BitVec 32), assemble (.config poly width) = some w ∧
      decode w = .command (.config wd p) ∧ (wd.toNat : Int) = width ∧ (p.toNat : Int) = poly) ∧
  (∀ value : Int, ∃ (w : CommandWord) (v : BitVec 32), assemble (.elemInt value) = some w ∧
    decode w = .command (.calcElem .int v) ∧ (v.toNat : Int) = value % 2 ^ 32) ∧
  (∀ l : AsmLine, l.wellFormed = false → assemble l = none)

/-- The pseudo-instruction `calc` expands to the words of the driver's commands (R85, R120). -/
def Obligations.CalcExpandsToDriverCommands : Prop :=
  ∀ (tl : Nat) (input : HostValue) (k : Int), 0 ≤ k → k < 2 ^ 32 →
    ∃ is, calculateCommands input (.int k) = some is ∧
      (expand tl (.calculate input k)).mapM assemble = some (is.map encode)
end

