-- ==== Sys2Proof/Laws/Encoding.lean ====
section
/-! SUPPORT. The fields of an encoded command and the mask and match rows (spec/30_encoding.md R72, R79). -/

namespace Sys2Proof

/-- A mask of all bits from `n` on compares the slice from `n` on: every mask of R79 has this form. -/
theorem and_highMask_eq_iff {n m : Nat} (h : n + m = 64) (w : BitVec 64) (v : BitVec m) :
    w &&& (BitVec.allOnes 64 <<< n) = (v.setWidth 64) <<< n ↔ slice w n m = v := by
  constructor
  · intro he
    apply BitVec.eq_of_getLsbD_eq
    intro i hi
    have := congrArg (·.getLsbD (n + i)) he
    simpa [slice, hi, show n + i < 64 by omega, show i < 64 by omega, -BitVec.reduceAllOnes] using this
  · intro he
    apply BitVec.eq_of_getLsbD_eq
    intro i hi
    by_cases hn : i < n
    · simp [hn, hi]
    · have := congrArg (·.getLsbD (i - n)) he
      simpa [-BitVec.reduceAllOnes, slice, hi, hn, show i - n < 64 by omega, show i - n < m by omega, show n + (i - n) = i by omega] using this

/-- A row whose mask is all bits from `n` on compares the slice from `n` on with the row's top bits `v`. -/
theorem OpcodeRow.hits_iff {n m : Nat} (h : n + m = 64) {r : OpcodeRow} {v : BitVec m}
    (hmask : r.mask = BitVec.allOnes 64 <<< n) (hmatch : r.matchBits = (v.setWidth 64) <<< n) (w : CommandWord) :
    r.hits w = true ↔ slice w n m = v := by
  rw [OpcodeRow.hits, beq_iff_eq, hmask, hmatch, and_highMask_eq_iff h]

@[simp] theorem opField_encode (i : Instr) : opField (encode i) = i.opcode := by
  apply BitVec.eq_of_getLsbD_eq
  intro j hj
  cases i <;> simp only [opField, slice, encode, Instr.opcode, BitVec.getLsbD_extractLsb', BitVec.getLsbD_append, hj] <;>
    interval_cases j <;> simp

/-- A row is hit only by words with the row's opcode. -/
theorem opField_of_hits {r : OpcodeRow} (hr : r ∈ opcodeRows) {w : CommandWord} (h : r.hits w = true) :
    opField w = opField r.matchBits := by
  have hm : r.mask.extractLsb' 60 4 = BitVec.allOnes 4 :=
    (by decide : ∀ r ∈ opcodeRows, r.mask.extractLsb' 60 4 = BitVec.allOnes 4) r hr
  simp only [OpcodeRow.hits, beq_iff_eq] at h
  have := congrArg (·.extractLsb' 60 4) h
  simpa only [opField, slice, BitVec.extractLsb'_and, hm, BitVec.and_allOnes] using this

/-- Concatenation as arithmetic: the high part scaled by the low part's width. -/
theorem toNat_append_eq_add {n m : Nat} (a : BitVec n) (b : BitVec m) :
    (a ++ b).toNat = a.toNat * 2 ^ m + b.toNat := by
  rw [BitVec.toNat_append, Nat.shiftLeft_eq, Nat.mul_comm, Nat.two_pow_add_eq_or_of_lt b.isLt]

@[simp] theorem kindOfBits_toBits (k : Kind) : kindOfBits k.toBits = k := by cases k <;> rfl

@[simp] theorem toBits_kindOfBits (k : BitVec 2) : (kindOfBits k).toBits = k := by revert k; decide

/-! ### The fields of an encoded command (R72) -/

theorem slices_encode_config (width : BitVec 16) (poly : BitVec 32) :
    slice (encode (.config width poly)) 48 12 = 0 ∧ slice (encode (.config width poly)) 32 16 = width ∧
      slice (encode (.config width poly)) 0 32 = poly := by
  refine ⟨?_, ?_, ?_⟩ <;> apply BitVec.eq_of_getLsbD_eq <;> intro j hj <;>
    simp only [slice, encode, BitVec.getLsbD_extractLsb', BitVec.getLsbD_append, hj] <;> interval_cases j <;> simp

theorem slices_encode_calcBegin (skip : BitVec 32) :
    slice (encode (.calcBegin skip)) 32 28 = 0 ∧ slice (encode (.calcBegin skip)) 0 32 = skip := by
  refine ⟨?_, ?_⟩ <;> apply BitVec.eq_of_getLsbD_eq <;> intro j hj <;>
    simp only [slice, encode, BitVec.getLsbD_extractLsb', BitVec.getLsbD_append, hj] <;> interval_cases j <;> simp

theorem slices_encode_calcElem (kind : Kind) (value : BitVec 32) :
    slice (encode (.calcElem kind value)) 34 26 = 0 ∧ slice (encode (.calcElem kind value)) 32 2 = kind.toBits ∧
      slice (encode (.calcElem kind value)) 0 32 = value := by
  refine ⟨?_, ?_, ?_⟩ <;> apply BitVec.eq_of_getLsbD_eq <;> intro j hj <;>
    simp only [slice, encode, BitVec.getLsbD_extractLsb', BitVec.getLsbD_append, hj] <;> interval_cases j <;> simp

theorem slices_encode_tableRead (index : BitVec 32) :
    slice (encode (.tableRead index)) 32 28 = 0 ∧ slice (encode (.tableRead index)) 0 32 = index := by
  refine ⟨?_, ?_⟩ <;> apply BitVec.eq_of_getLsbD_eq <;> intro j hj <;>
    simp only [slice, encode, BitVec.getLsbD_extractLsb', BitVec.getLsbD_append, hj] <;> interval_cases j <;> simp

end Sys2Proof
end

