-- ==== Sys2Proof/Laws/Response.lean ====
section
/-! SUPPORT. The fields of an assembled response word (spec/30_encoding.md R80). -/

namespace Sys2Proof.Machine

variable (c : Code) (echo : BitVec 4) (flags : BitVec 2) (data : BitVec 32)

@[simp] theorem rspCode_responseWord : rspCode (responseWord c echo flags data) = codeBits c := by
  apply BitVec.eq_of_getLsbD_eq
  intro i hi
  simp only [rspCode, slice, responseWord, BitVec.getLsbD_extractLsb', BitVec.getLsbD_append, hi]
  have : 56 + i - 32 - 14 - 2 - 4 - 4 = i := by omega
  simp [this, show ¬ 56 + i < 32 by omega, show ¬ 56 + i - 32 < 14 by omega, show ¬ 56 + i ≤ 47 by omega,
    show ¬ 56 + i - 32 - 14 - 2 < 4 by omega, show ¬ 56 + i - 32 - 14 - 2 - 4 < 4 by omega]

@[simp] theorem rspEcho_responseWord : rspEcho (responseWord c echo flags data) = echo := by
  apply BitVec.eq_of_getLsbD_eq
  intro i hi
  simp only [rspEcho, slice, responseWord, BitVec.getLsbD_extractLsb', BitVec.getLsbD_append, hi]
  have : 48 + i - 32 - 14 - 2 = i := by omega
  simp [this, hi, show ¬ 48 + i < 32 by omega, show ¬ 48 + i - 32 < 14 by omega,
    show ¬ 48 + i - 32 - 14 < 2 by omega]

@[simp] theorem rspData_responseWord : rspData (responseWord c echo flags data) = data := by
  apply BitVec.eq_of_getLsbD_eq
  intro i hi
  simp only [rspData, slice, responseWord, BitVec.getLsbD_extractLsb', BitVec.getLsbD_append, hi]
  simp [hi]

@[simp] theorem rspOpen_responseWord : rspOpen (responseWord c echo flags data) = flags[1] := by
  simp only [rspOpen, responseWord, BitVec.getLsbD_append]
  simp

@[simp] theorem rspErr_responseWord : rspErr (responseWord c echo flags data) = flags[0] := by
  simp only [rspErr, responseWord, BitVec.getLsbD_append]
  simp

@[simp] theorem rspReservedClear_responseWord : rspReservedClear (responseWord c echo flags data) = true := by
  have h1 : slice (responseWord c echo flags data) 52 4 = 0 := by
    apply BitVec.eq_of_getLsbD_eq
    intro i hi
    simp only [slice, responseWord, BitVec.getLsbD_extractLsb', BitVec.getLsbD_append, hi]
    simp [hi, show ¬ 52 + i < 32 by omega, show ¬ 52 + i - 32 < 14 by omega, show ¬ 52 + i - 32 - 14 < 2 by omega,
      show ¬ 52 + i - 32 - 14 - 2 < 4 by omega, show 52 + i - 32 - 14 - 2 - 4 < 4 by omega]
  have h2 : slice (responseWord c echo flags data) 32 14 = 0 := by
    apply BitVec.eq_of_getLsbD_eq
    intro i hi
    simp only [slice, responseWord, BitVec.getLsbD_extractLsb', BitVec.getLsbD_append, hi]
    simp [hi]
  simp [rspReservedClear, h1, h2]

/-- The flag bits are SESSION_OPEN over SESSION_ERR. -/
@[simp] theorem flagBits_one (s : State) : s.flagBits[1] = s.sessionOpen := by
  cases h : s.sessionOpen <;> cases h' : s.sessionErr <;> simp [State.flagBits, h, h']

@[simp] theorem flagBits_zero (s : State) : s.flagBits[0] = s.sessionErr := by
  cases h : s.sessionOpen <;> cases h' : s.sessionErr <;> simp [State.flagBits, h, h']

/-- Different codes have different values (R81). -/
theorem codeBits_injective {a b : Code} (h : codeBits a = codeBits b) : a = b := by
  cases a <;> cases b <;> first | rfl | (exact absurd h (by decide))

/-- No code is above 0x06 (R81). -/
theorem codeBits_le (c : Code) : (codeBits c).toNat ≤ 6 := by
  cases c <;> decide

end Sys2Proof.Machine
end

