-- ==== Sys2Proof/Laws/State.lean ====
section
/-! SUPPORT. One lemma per field per state update, so that no later proof unfolds a record update. -/

namespace Sys2Proof.Machine

variable (s : State)

/-! ### State.openFlags -/

@[simp] theorem State.openFlags_wMax : s.openFlags.wMax = s.wMax := rfl
@[simp] theorem State.openFlags_cfgWidth : s.openFlags.cfgWidth = s.cfgWidth := rfl
@[simp] theorem State.openFlags_cfgPoly : s.openFlags.cfgPoly = s.cfgPoly := rfl
@[simp] theorem State.openFlags_table : s.openFlags.table = s.table := rfl
@[simp] theorem State.openFlags_sessionOpen : s.openFlags.sessionOpen = true := rfl
@[simp] theorem State.openFlags_sessionErr : s.openFlags.sessionErr = false := rfl
@[simp] theorem State.openFlags_skipRem : s.openFlags.skipRem = s.skipRem := rfl
@[simp] theorem State.openFlags_crcAcc : s.openFlags.crcAcc = s.crcAcc := rfl
@[simp] theorem State.openFlags_hostInputs : s.openFlags.hostInputs = s.hostInputs := rfl
@[simp] theorem State.openFlags_rspWaiting : s.openFlags.rspWaiting = s.rspWaiting := rfl
@[simp] theorem State.openFlags_responses : s.openFlags.responses = s.responses := rfl
@[simp] theorem State.openFlags_width : s.openFlags.width = s.width := rfl

/-! ### State.failFlag -/

@[simp] theorem State.failFlag_wMax : s.failFlag.wMax = s.wMax := rfl
@[simp] theorem State.failFlag_cfgWidth : s.failFlag.cfgWidth = s.cfgWidth := rfl
@[simp] theorem State.failFlag_cfgPoly : s.failFlag.cfgPoly = s.cfgPoly := rfl
@[simp] theorem State.failFlag_table : s.failFlag.table = s.table := rfl
@[simp] theorem State.failFlag_sessionOpen : s.failFlag.sessionOpen = s.sessionOpen := rfl
@[simp] theorem State.failFlag_sessionErr : s.failFlag.sessionErr = true := rfl
@[simp] theorem State.failFlag_skipRem : s.failFlag.skipRem = s.skipRem := rfl
@[simp] theorem State.failFlag_crcAcc : s.failFlag.crcAcc = s.crcAcc := rfl
@[simp] theorem State.failFlag_hostInputs : s.failFlag.hostInputs = s.hostInputs := rfl
@[simp] theorem State.failFlag_rspWaiting : s.failFlag.rspWaiting = s.rspWaiting := rfl
@[simp] theorem State.failFlag_responses : s.failFlag.responses = s.responses := rfl
@[simp] theorem State.failFlag_width : s.failFlag.width = s.width := rfl

/-! ### State.closeFlags -/

@[simp] theorem State.closeFlags_wMax : s.closeFlags.wMax = s.wMax := rfl
@[simp] theorem State.closeFlags_cfgWidth : s.closeFlags.cfgWidth = s.cfgWidth := rfl
@[simp] theorem State.closeFlags_cfgPoly : s.closeFlags.cfgPoly = s.cfgPoly := rfl
@[simp] theorem State.closeFlags_table : s.closeFlags.table = s.table := rfl
@[simp] theorem State.closeFlags_sessionOpen : s.closeFlags.sessionOpen = false := rfl
@[simp] theorem State.closeFlags_sessionErr : s.closeFlags.sessionErr = false := rfl
@[simp] theorem State.closeFlags_skipRem : s.closeFlags.skipRem = s.skipRem := rfl
@[simp] theorem State.closeFlags_crcAcc : s.closeFlags.crcAcc = s.crcAcc := rfl
@[simp] theorem State.closeFlags_hostInputs : s.closeFlags.hostInputs = s.hostInputs := rfl
@[simp] theorem State.closeFlags_rspWaiting : s.closeFlags.rspWaiting = s.rspWaiting := rfl
@[simp] theorem State.closeFlags_responses : s.closeFlags.responses = s.responses := rfl
@[simp] theorem State.closeFlags_width : s.closeFlags.width = s.width := rfl

/-! ### State.setEngine -/

@[simp] theorem State.setEngine_wMax (w : BitVec 6) (p : Entry) (t : Memory) : (s.setEngine w p t).wMax = s.wMax := rfl
@[simp] theorem State.setEngine_cfgWidth (w : BitVec 6) (p : Entry) (t : Memory) : (s.setEngine w p t).cfgWidth = w := rfl
@[simp] theorem State.setEngine_cfgPoly (w : BitVec 6) (p : Entry) (t : Memory) : (s.setEngine w p t).cfgPoly = p := rfl
@[simp] theorem State.setEngine_table (w : BitVec 6) (p : Entry) (t : Memory) : (s.setEngine w p t).table = t := rfl
@[simp] theorem State.setEngine_sessionOpen (w : BitVec 6) (p : Entry) (t : Memory) : (s.setEngine w p t).sessionOpen = s.sessionOpen := rfl
@[simp] theorem State.setEngine_sessionErr (w : BitVec 6) (p : Entry) (t : Memory) : (s.setEngine w p t).sessionErr = s.sessionErr := rfl
@[simp] theorem State.setEngine_skipRem (w : BitVec 6) (p : Entry) (t : Memory) : (s.setEngine w p t).skipRem = s.skipRem := rfl
@[simp] theorem State.setEngine_crcAcc (w : BitVec 6) (p : Entry) (t : Memory) : (s.setEngine w p t).crcAcc = s.crcAcc := rfl
@[simp] theorem State.setEngine_hostInputs (w : BitVec 6) (p : Entry) (t : Memory) : (s.setEngine w p t).hostInputs = s.hostInputs := rfl
@[simp] theorem State.setEngine_rspWaiting (w : BitVec 6) (p : Entry) (t : Memory) : (s.setEngine w p t).rspWaiting = s.rspWaiting := rfl
@[simp] theorem State.setEngine_responses (w : BitVec 6) (p : Entry) (t : Memory) : (s.setEngine w p t).responses = s.responses := rfl
@[simp] theorem State.setEngine_flagBits (w : BitVec 6) (p : Entry) (t : Memory) : (s.setEngine w p t).flagBits = s.flagBits := rfl

/-! ### State.beginSession -/

@[simp] theorem State.beginSession_wMax (k : BitVec 32) : (s.beginSession k).wMax = s.wMax := rfl
@[simp] theorem State.beginSession_cfgWidth (k : BitVec 32) : (s.beginSession k).cfgWidth = s.cfgWidth := rfl
@[simp] theorem State.beginSession_cfgPoly (k : BitVec 32) : (s.beginSession k).cfgPoly = s.cfgPoly := rfl
@[simp] theorem State.beginSession_table (k : BitVec 32) : (s.beginSession k).table = s.table := rfl
@[simp] theorem State.beginSession_sessionOpen (k : BitVec 32) : (s.beginSession k).sessionOpen = true := rfl
@[simp] theorem State.beginSession_sessionErr (k : BitVec 32) : (s.beginSession k).sessionErr = false := rfl
@[simp] theorem State.beginSession_skipRem (k : BitVec 32) : (s.beginSession k).skipRem = k := rfl
@[simp] theorem State.beginSession_crcAcc (k : BitVec 32) : (s.beginSession k).crcAcc = 0 := rfl
@[simp] theorem State.beginSession_hostInputs (k : BitVec 32) : (s.beginSession k).hostInputs = s.hostInputs := rfl
@[simp] theorem State.beginSession_rspWaiting (k : BitVec 32) : (s.beginSession k).rspWaiting = s.rspWaiting := rfl
@[simp] theorem State.beginSession_responses (k : BitVec 32) : (s.beginSession k).responses = s.responses := rfl
@[simp] theorem State.beginSession_width (k : BitVec 32) : (s.beginSession k).width = s.width := rfl

/-! ### State.countSkipped -/

@[simp] theorem State.countSkipped_wMax : s.countSkipped.wMax = s.wMax := rfl
@[simp] theorem State.countSkipped_cfgWidth : s.countSkipped.cfgWidth = s.cfgWidth := rfl
@[simp] theorem State.countSkipped_cfgPoly : s.countSkipped.cfgPoly = s.cfgPoly := rfl
@[simp] theorem State.countSkipped_table : s.countSkipped.table = s.table := rfl
@[simp] theorem State.countSkipped_sessionOpen : s.countSkipped.sessionOpen = s.sessionOpen := rfl
@[simp] theorem State.countSkipped_sessionErr : s.countSkipped.sessionErr = s.sessionErr := rfl
@[simp] theorem State.countSkipped_skipRem : s.countSkipped.skipRem = s.skipRem - 1 := rfl
@[simp] theorem State.countSkipped_crcAcc : s.countSkipped.crcAcc = s.crcAcc := rfl
@[simp] theorem State.countSkipped_hostInputs : s.countSkipped.hostInputs = s.hostInputs := rfl
@[simp] theorem State.countSkipped_rspWaiting : s.countSkipped.rspWaiting = s.rspWaiting := rfl
@[simp] theorem State.countSkipped_responses : s.countSkipped.responses = s.responses := rfl
@[simp] theorem State.countSkipped_width : s.countSkipped.width = s.width := rfl
@[simp] theorem State.countSkipped_flagBits : s.countSkipped.flagBits = s.flagBits := rfl

/-! ### State.setAcc -/

@[simp] theorem State.setAcc_wMax (e : Entry) : (s.setAcc e).wMax = s.wMax := rfl
@[simp] theorem State.setAcc_cfgWidth (e : Entry) : (s.setAcc e).cfgWidth = s.cfgWidth := rfl
@[simp] theorem State.setAcc_cfgPoly (e : Entry) : (s.setAcc e).cfgPoly = s.cfgPoly := rfl
@[simp] theorem State.setAcc_table (e : Entry) : (s.setAcc e).table = s.table := rfl
@[simp] theorem State.setAcc_sessionOpen (e : Entry) : (s.setAcc e).sessionOpen = s.sessionOpen := rfl
@[simp] theorem State.setAcc_sessionErr (e : Entry) : (s.setAcc e).sessionErr = s.sessionErr := rfl
@[simp] theorem State.setAcc_skipRem (e : Entry) : (s.setAcc e).skipRem = s.skipRem := rfl
@[simp] theorem State.setAcc_crcAcc (e : Entry) : (s.setAcc e).crcAcc = e := rfl
@[simp] theorem State.setAcc_hostInputs (e : Entry) : (s.setAcc e).hostInputs = s.hostInputs := rfl
@[simp] theorem State.setAcc_rspWaiting (e : Entry) : (s.setAcc e).rspWaiting = s.rspWaiting := rfl
@[simp] theorem State.setAcc_responses (e : Entry) : (s.setAcc e).responses = s.responses := rfl
@[simp] theorem State.setAcc_width (e : Entry) : (s.setAcc e).width = s.width := rfl
@[simp] theorem State.setAcc_flagBits (e : Entry) : (s.setAcc e).flagBits = s.flagBits := rfl

/-! ### respond -/

@[simp] theorem respond_wMax (echo : BitVec 4) (c : Code) (d : BitVec 32) : (respond echo c d s).wMax = s.wMax := rfl
@[simp] theorem respond_cfgWidth (echo : BitVec 4) (c : Code) (d : BitVec 32) : (respond echo c d s).cfgWidth = s.cfgWidth := rfl
@[simp] theorem respond_cfgPoly (echo : BitVec 4) (c : Code) (d : BitVec 32) : (respond echo c d s).cfgPoly = s.cfgPoly := rfl
@[simp] theorem respond_table (echo : BitVec 4) (c : Code) (d : BitVec 32) : (respond echo c d s).table = s.table := rfl
@[simp] theorem respond_sessionOpen (echo : BitVec 4) (c : Code) (d : BitVec 32) : (respond echo c d s).sessionOpen = s.sessionOpen := rfl
@[simp] theorem respond_sessionErr (echo : BitVec 4) (c : Code) (d : BitVec 32) : (respond echo c d s).sessionErr = s.sessionErr := rfl
@[simp] theorem respond_skipRem (echo : BitVec 4) (c : Code) (d : BitVec 32) : (respond echo c d s).skipRem = s.skipRem := rfl
@[simp] theorem respond_crcAcc (echo : BitVec 4) (c : Code) (d : BitVec 32) : (respond echo c d s).crcAcc = s.crcAcc := rfl
@[simp] theorem respond_hostInputs (echo : BitVec 4) (c : Code) (d : BitVec 32) : (respond echo c d s).hostInputs = s.hostInputs := rfl
@[simp] theorem respond_rspWaiting (echo : BitVec 4) (c : Code) (d : BitVec 32) : (respond echo c d s).rspWaiting = s.rspWaiting := rfl
@[simp] theorem respond_responses (echo : BitVec 4) (c : Code) (d : BitVec 32) : (respond echo c d s).responses = s.responses ++ [responseWord c echo s.flagBits d] := rfl
@[simp] theorem respond_width (echo : BitVec 4) (c : Code) (d : BitVec 32) : (respond echo c d s).width = s.width := rfl
@[simp] theorem respond_flagBits (echo : BitVec 4) (c : Code) (d : BitVec 32) : (respond echo c d s).flagBits = s.flagBits := rfl

/-! ### State.holdResponse -/

@[simp] theorem State.holdResponse_wMax : s.holdResponse.wMax = s.wMax := rfl
@[simp] theorem State.holdResponse_cfgWidth : s.holdResponse.cfgWidth = s.cfgWidth := rfl
@[simp] theorem State.holdResponse_cfgPoly : s.holdResponse.cfgPoly = s.cfgPoly := rfl
@[simp] theorem State.holdResponse_table : s.holdResponse.table = s.table := rfl
@[simp] theorem State.holdResponse_sessionOpen : s.holdResponse.sessionOpen = s.sessionOpen := rfl
@[simp] theorem State.holdResponse_sessionErr : s.holdResponse.sessionErr = s.sessionErr := rfl
@[simp] theorem State.holdResponse_skipRem : s.holdResponse.skipRem = s.skipRem := rfl
@[simp] theorem State.holdResponse_crcAcc : s.holdResponse.crcAcc = s.crcAcc := rfl
@[simp] theorem State.holdResponse_hostInputs : s.holdResponse.hostInputs = s.hostInputs := rfl
@[simp] theorem State.holdResponse_responses : s.holdResponse.responses = s.responses.dropLast := rfl
@[simp] theorem State.holdResponse_rspWaiting : s.holdResponse.rspWaiting = s.responses.getLast? := rfl
@[simp] theorem State.holdResponse_width : s.holdResponse.width = s.width := rfl
@[simp] theorem State.holdResponse_flagBits : s.holdResponse.flagBits = s.flagBits := rfl

/-! ### State.takeResponse -/

@[simp] theorem State.takeResponse_wMax : s.takeResponse.wMax = s.wMax := rfl
@[simp] theorem State.takeResponse_cfgWidth : s.takeResponse.cfgWidth = s.cfgWidth := rfl
@[simp] theorem State.takeResponse_cfgPoly : s.takeResponse.cfgPoly = s.cfgPoly := rfl
@[simp] theorem State.takeResponse_table : s.takeResponse.table = s.table := rfl
@[simp] theorem State.takeResponse_sessionOpen : s.takeResponse.sessionOpen = s.sessionOpen := rfl
@[simp] theorem State.takeResponse_sessionErr : s.takeResponse.sessionErr = s.sessionErr := rfl
@[simp] theorem State.takeResponse_skipRem : s.takeResponse.skipRem = s.skipRem := rfl
@[simp] theorem State.takeResponse_crcAcc : s.takeResponse.crcAcc = s.crcAcc := rfl
@[simp] theorem State.takeResponse_hostInputs : s.takeResponse.hostInputs = s.hostInputs := rfl
@[simp] theorem State.takeResponse_responses : s.takeResponse.responses = s.responses ++ s.rspWaiting.toList := rfl
@[simp] theorem State.takeResponse_rspWaiting : s.takeResponse.rspWaiting = none := rfl
@[simp] theorem State.takeResponse_width : s.takeResponse.width = s.width := rfl
@[simp] theorem State.takeResponse_flagBits : s.takeResponse.flagBits = s.flagBits := rfl

/-! ### State.resetBlock -/

@[simp] theorem State.resetBlock_wMax : s.resetBlock.wMax = s.wMax := rfl
@[simp] theorem State.resetBlock_cfgWidth : s.resetBlock.cfgWidth = 8 := rfl
@[simp] theorem State.resetBlock_cfgPoly : s.resetBlock.cfgPoly = 0x9B := rfl
@[simp] theorem State.resetBlock_table : s.resetBlock.table = genTable 0x9B 8 :=
  congrArg₂ genTable (rfl : Config.defaultPoly = 0x9B) (rfl : Config.defaultWidth.toNat = 8)
@[simp] theorem State.resetBlock_sessionOpen : s.resetBlock.sessionOpen = false := rfl
@[simp] theorem State.resetBlock_sessionErr : s.resetBlock.sessionErr = false := rfl
@[simp] theorem State.resetBlock_skipRem : s.resetBlock.skipRem = 0 := rfl
@[simp] theorem State.resetBlock_crcAcc : s.resetBlock.crcAcc = 0 := rfl
@[simp] theorem State.resetBlock_hostInputs : s.resetBlock.hostInputs = s.hostInputs := rfl
@[simp] theorem State.resetBlock_rspWaiting : s.resetBlock.rspWaiting = none := rfl
@[simp] theorem State.resetBlock_responses : s.resetBlock.responses = s.responses := rfl

/-! ### State.takeInput -/

@[simp] theorem State.takeInput_wMax (rest : List HostInput) : (s.takeInput rest).wMax = s.wMax := rfl
@[simp] theorem State.takeInput_cfgWidth (rest : List HostInput) : (s.takeInput rest).cfgWidth = s.cfgWidth := rfl
@[simp] theorem State.takeInput_cfgPoly (rest : List HostInput) : (s.takeInput rest).cfgPoly = s.cfgPoly := rfl
@[simp] theorem State.takeInput_table (rest : List HostInput) : (s.takeInput rest).table = s.table := rfl
@[simp] theorem State.takeInput_sessionOpen (rest : List HostInput) : (s.takeInput rest).sessionOpen = s.sessionOpen := rfl
@[simp] theorem State.takeInput_sessionErr (rest : List HostInput) : (s.takeInput rest).sessionErr = s.sessionErr := rfl
@[simp] theorem State.takeInput_skipRem (rest : List HostInput) : (s.takeInput rest).skipRem = s.skipRem := rfl
@[simp] theorem State.takeInput_crcAcc (rest : List HostInput) : (s.takeInput rest).crcAcc = s.crcAcc := rfl
@[simp] theorem State.takeInput_hostInputs (rest : List HostInput) : (s.takeInput rest).hostInputs = rest := rfl
@[simp] theorem State.takeInput_rspWaiting (rest : List HostInput) : (s.takeInput rest).rspWaiting = s.rspWaiting := rfl
@[simp] theorem State.takeInput_responses (rest : List HostInput) : (s.takeInput rest).responses = s.responses := rfl
@[simp] theorem State.takeInput_width (rest : List HostInput) : (s.takeInput rest).width = s.width := rfl
@[simp] theorem State.takeInput_flagBits (rest : List HostInput) : (s.takeInput rest).flagBits = s.flagBits := rfl

/-! ### State.offer -/

@[simp] theorem State.offer_wMax (is : List Instr) : (s.offer is).wMax = s.wMax := rfl
@[simp] theorem State.offer_cfgWidth (is : List Instr) : (s.offer is).cfgWidth = s.cfgWidth := rfl
@[simp] theorem State.offer_cfgPoly (is : List Instr) : (s.offer is).cfgPoly = s.cfgPoly := rfl
@[simp] theorem State.offer_table (is : List Instr) : (s.offer is).table = s.table := rfl
@[simp] theorem State.offer_sessionOpen (is : List Instr) : (s.offer is).sessionOpen = s.sessionOpen := rfl
@[simp] theorem State.offer_sessionErr (is : List Instr) : (s.offer is).sessionErr = s.sessionErr := rfl
@[simp] theorem State.offer_skipRem (is : List Instr) : (s.offer is).skipRem = s.skipRem := rfl
@[simp] theorem State.offer_crcAcc (is : List Instr) : (s.offer is).crcAcc = s.crcAcc := rfl
@[simp] theorem State.offer_hostInputs (is : List Instr) : (s.offer is).hostInputs = is.map fun i => .command (encode i) := rfl
@[simp] theorem State.offer_rspWaiting (is : List Instr) : (s.offer is).rspWaiting = none := rfl
@[simp] theorem State.offer_responses (is : List Instr) : (s.offer is).responses = s.responses ++ s.rspWaiting.toList := rfl
@[simp] theorem State.offer_width (is : List Instr) : (s.offer is).width = s.width := rfl
@[simp] theorem State.offer_flagBits (is : List Instr) : (s.offer is).flagBits = s.flagBits := rfl

@[simp] theorem State.setEngine_width (w : BitVec 6) (p : Entry) (t : Memory) :
    (s.setEngine w p t).width = w.toNat := rfl

@[simp] theorem State.resetBlock_width : s.resetBlock.width = 8 := rfl

/-! ### The flag bits as values -/

@[simp] theorem State.openFlags_flagBits : s.openFlags.flagBits = 0b10 := by
  show BitVec.ofBool true ++ BitVec.ofBool false = 0b10#2
  decide
@[simp] theorem State.closeFlags_flagBits : s.closeFlags.flagBits = 0b00 := by
  show BitVec.ofBool false ++ BitVec.ofBool false = 0b00#2
  decide
@[simp] theorem State.beginSession_flagBits (k : BitVec 32) : (s.beginSession k).flagBits = 0b10 := by
  show BitVec.ofBool true ++ BitVec.ofBool false = 0b10#2
  decide

theorem State.failFlag_flagBits (h : s.sessionOpen = true) : s.failFlag.flagBits = 0b11 := by
  show BitVec.ofBool s.sessionOpen ++ BitVec.ofBool true = 0b11#2
  rw [h]; decide

theorem State.flagBits_of_open (h : s.sessionOpen = true) (h' : s.sessionErr = false) : s.flagBits = 0b10 := by
  rw [State.flagBits, h, h']; decide

theorem State.flagBits_of_failed (h : s.sessionOpen = true) (h' : s.sessionErr = true) : s.flagBits = 0b11 := by
  rw [State.flagBits, h, h']; decide

/-! ### reset -/

@[simp] theorem State.resetFor_wMax (w : Nat) : (State.resetFor w).wMax = w := rfl
@[simp] theorem State.resetFor_width (w : Nat) : (State.resetFor w).width = 8 := rfl
@[simp] theorem State.resetFor_hostInputs (w : Nat) : (State.resetFor w).hostInputs = [] := rfl
@[simp] theorem State.resetFor_rspWaiting (w : Nat) : (State.resetFor w).rspWaiting = none := rfl
@[simp] theorem State.resetFor_responses (w : Nat) : (State.resetFor w).responses = [] := rfl

end Sys2Proof.Machine
end

