-- ==== Sys2Proof/Laws/Table.lean ====
section
/-! SUPPORT. The lookup table: what Gen's entries and the two access primitives do (spec/40_table_generator.md R103,
spec/20_memory.md R52, R53). -/

namespace Sys2Proof.Machine

/-! ### The checks as propositions -/

theorem widthValid_iff {m w : Nat} : widthValid m w = true ↔ 1 ≤ w ∧ w ≤ m := decide_eq_true_iff

theorem indexInRange_iff {w : Nat} {i : BitVec 32} : indexInRange w i = true ↔ i.toNat < tableLength w :=
  decide_eq_true_iff

theorem legalWMax_iff {m : Nat} : Config.legalWMax m = true ↔ 1 ≤ m ∧ m ≤ 32 := decide_eq_true_iff

theorem tableLength_eq (w : Nat) : tableLength w = 2 ^ w := rfl

theorem tableLength_pos (w : Nat) : 0 < tableLength w := Nat.two_pow_pos w

/-- Masking by MASK is reduction mod TL (spec/00_scope.md R10). -/
theorem and_widthMask (v w : Nat) : v &&& widthMask w = v % tableLength w := Nat.and_two_pow_sub_one_eq_mod v w

/-- Every entry is below 2^w (R103). -/
theorem genEntry_lt (p w i : Nat) : genEntry p w i < tableLength w := by
  rw [genEntry, and_widthMask]
  exact Nat.mod_lt _ (tableLength_pos w)

@[simp] theorem genTable_length (p : Entry) (w : Nat) : (genTable p w).length = tableLength w := by
  simp [genTable]

/-- Reading Gen inside its length gives the entry of that index. -/
theorem tableRead_genTable {p : Entry} {w i : Nat} (h : i < tableLength w) :
    tableRead (genTable p w) i = some (BitVec.ofNat 32 (genEntry p.toNat w i)) := by
  simp [tableRead, genTable, h]

/-- Reading outside the list finds nothing. -/
theorem tableRead_eq_none {t : Memory} {i : Nat} : tableRead t i = none ↔ t.length ≤ i :=
  List.getElem?_eq_none_iff

/-- For a width of at most 32 the 32 bits of an entry hold it whole. -/
theorem toNat_genEntry {p w i : Nat} (hw : w ≤ 32) : (BitVec.ofNat 32 (genEntry p w i)).toNat = genEntry p w i := by
  have := genEntry_lt p w i
  have : tableLength w ≤ 2 ^ 32 := Nat.pow_le_pow_right (by decide) hw
  simp only [BitVec.toNat_ofNat]
  exact Nat.mod_eq_of_lt (by omega)

/-- A value found in Gen is below 2^w, for a width of at most 32. -/
theorem lt_of_tableRead_genTable {p : Entry} {w i : Nat} {e : Entry} (hw : w ≤ 32)
    (h : tableRead (genTable p w) i = some e) : e.toNat < tableLength w := by
  have hi : i < tableLength w := by
    by_contra hi
    have := tableRead_eq_none (t := genTable p w) (i := i)
    simp_all
  rw [tableRead_genTable hi, Option.some.injEq] at h
  rw [← h, toNat_genEntry hw]
  exact genEntry_lt ..

/-- Gen has the table's one form (spec/10_state.md R25). -/
theorem genTable_wf (p : Entry) {w : Nat} (hw : w ≤ 32) : Memory.wf w (genTable p w) = true := by
  simp only [Memory.wf, genTable_length, beq_self_eq_true, List.all_eq_true, decide_eq_true_eq, Bool.true_and]
  intro e he
  obtain ⟨i, _, hi⟩ := List.getElem_of_mem he
  exact lt_of_tableRead_genTable (p := p) (i := i) hw (by simp [tableRead, ← hi])

/-- Reading after writing the same entry of the store (R53). -/
theorem tableRead_tableWrite_same {t : Memory} {i : Nat} (v : Entry) (h : i < t.length) :
    tableRead (tableWrite t i v) i = some v := by
  simp [tableRead, tableWrite, h]

/-- Writing an entry leaves every other alone (R53). -/
theorem tableRead_tableWrite_other {t : Memory} {i j : Nat} (v : Entry) (h : i ≠ j) :
    tableRead (tableWrite t i v) j = tableRead t j := by
  simp [tableRead, tableWrite, h]

@[simp] theorem tableWrite_length (t : Memory) (i : Nat) (v : Entry) : (tableWrite t i v).length = t.length := by
  simp [tableWrite]

/-- Writing keeps the table's form where the value keeps the width. -/
theorem tableWrite_wf {w : Nat} {t : Memory} {i : Nat} {v : Entry} (ht : Memory.wf w t = true)
    (hv : v.toNat < tableLength w) : Memory.wf w (tableWrite t i v) = true := by
  simp only [Memory.wf, tableWrite_length, Bool.and_eq_true, List.all_eq_true, decide_eq_true_eq] at *
  refine ⟨ht.1, fun e he => ?_⟩
  rcases List.mem_or_eq_of_mem_set he with h | h
  · exact ht.2 e h
  · exact h ▸ hv

theorem lookupIndex_lt (w : Nat) (acc : Entry) (b : BitVec 8) : lookupIndex w acc b < tableLength w :=
  Nat.mod_lt _ (tableLength_pos w)

/-- POLY masked to the width is below 2^width (spec/40_table_generator.md R102). -/
theorem toNat_maskPoly {w : Nat} (hw : w ≤ 32) (p : BitVec 32) : (maskPoly w p).toNat = p.toNat % tableLength w := by
  have h1 : tableLength w ≤ 2 ^ 32 := Nat.pow_le_pow_right (by decide) hw
  have h2 : 0 < tableLength w := tableLength_pos w
  rw [maskPoly, BitVec.toNat_and, BitVec.toNat_ofNat, Nat.mod_eq_of_lt (by simp only [widthMask]; exact Nat.lt_of_lt_of_le (Nat.sub_lt h2 (by decide)) h1),
    and_widthMask]

/-- The 6 bits of CFG_WIDTH hold every width of at most 32. -/
theorem toNat_storedWidth {w : BitVec 16} (hw : w.toNat ≤ 32) : (storedWidth w).toNat = w.toNat := by
  simp only [storedWidth, BitVec.toNat_setWidth]
  omega

end Sys2Proof.Machine
end

