-- ==== Sys2Proof/Laws/Exec.lean ====
section
/-! SUPPORT. Everything a command can do, once per meaning: if it answers a next state, which one and under which
conditions. Later proofs cite these and do not unfold the meanings. -/

namespace Sys2Proof.Machine

variable {s t : State}

/-- `raise` always answers a next state: the one the command found, with one response. -/
theorem raiseError_eq_next {echo : BitVec 4} {c : Code} :
    raiseError echo c s = .next t ↔ respond echo c 0 s = t := by
  simp [raiseError]

/-- A word that spells no command changes nothing but the responses. -/
theorem illegalWord_eq_next {w : CommandWord} :
    illegalWord w s = .next t ↔ respond (opField w) .illegalCommand 0 s = t := raiseError_eq_next

theorem execNop_cases (h : execNop s = .next t) : t = respond 0x0 .ok 0 s := by
  simpa [execNop, Instr.opcode] using h.symm

theorem execConfig_cases {width : BitVec 16} {poly : BitVec 32} (h : execConfig width poly s = .next t) :
    (s.sessionOpen = true ∧ t = respond 0x1 .sequenceError 0 s) ∨
    (s.sessionOpen = false ∧ widthValid s.wMax width.toNat = false ∧ t = respond 0x1 .configurationError 0 s) ∨
    (s.sessionOpen = false ∧ widthValid s.wMax width.toNat = true ∧
      t = respond 0x1 .ok 0 (s.setEngine (storedWidth width) (maskPoly width.toNat poly)
        (genTable (maskPoly width.toNat poly) width.toNat))) := by
  cases ho : s.sessionOpen <;> cases hv : widthValid s.wMax width.toNat <;>
    simp_all [execConfig, raiseError, Instr.opcode]

theorem execCalcBegin_cases {skip : BitVec 32} (h : execCalcBegin skip s = .next t) :
    (s.sessionOpen = true ∧ t = respond 0x2 .sequenceError 0 s) ∨
    (s.sessionOpen = false ∧ t = respond 0x2 .ok 0 (s.beginSession skip)) := by
  cases ho : s.sessionOpen <;> simp_all [execCalcBegin, raiseError, Instr.opcode]

theorem foldElement_cases {echo : BitVec 4} {value : BitVec 32} (h : foldElement echo value s = .next t) :
    ∃ e, tableRead s.table (lookupIndex s.width s.crcAcc (elementByte value)) = some e ∧
      t = respond echo .ok 0 (s.setAcc e) := by
  unfold foldElement at h
  split at h
  · next e he => exact ⟨e, he, by simpa using h.symm⟩
  · simp at h

theorem execCalcElem_cases {kind : Kind} {value : BitVec 32} (h : execCalcElem kind value s = .next t) :
    (s.sessionOpen = false ∧ t = respond 0x3 .sequenceError 0 s) ∨
    (s.sessionOpen = true ∧ kindUnsupported kind = true ∧ t = respond 0x3 .unsupportedInputElement 0 s.failFlag) ∨
    (s.sessionOpen = true ∧ kindUnsupported kind = false ∧ s.sessionErr = true ∧ t = respond 0x3 .ok 0 s) ∨
    (s.sessionOpen = true ∧ kindUnsupported kind = false ∧ s.sessionErr = false ∧ 0 < s.skipRem.toNat ∧
      t = respond 0x3 .ok 0 s.countSkipped) ∨
    (s.sessionOpen = true ∧ kindUnsupported kind = false ∧ s.sessionErr = false ∧ s.skipRem.toNat = 0 ∧
      ∃ e, tableRead s.table (lookupIndex s.width s.crcAcc (elementByte value)) = some e ∧
        t = respond 0x3 .ok 0 (s.setAcc e)) := by
  cases ho : s.sessionOpen <;> cases hk : kindUnsupported kind <;> cases he : s.sessionErr <;>
    simp [execCalcElem, raiseError, Instr.opcode, ho, hk, he] at h ⊢
  all_goals try exact h.symm
  split at h
  · next hs => exact .inl ⟨hs, by simpa using h.symm⟩
  · next hs => exact .inr ⟨by omega, foldElement_cases h⟩

theorem execCalcEnd_cases (h : execCalcEnd s = .next t) :
    (s.sessionOpen = false ∧ t = respond 0x4 .sequenceError 0 s) ∨
    (s.sessionOpen = true ∧ s.sessionErr = true ∧ t = respond 0x4 .unsupportedInputElement 0 s.closeFlags) ∨
    (s.sessionOpen = true ∧ s.sessionErr = false ∧ 0 < s.skipRem.toNat ∧ t = respond 0x4 .skipRange 0 s.closeFlags) ∨
    (s.sessionOpen = true ∧ s.sessionErr = false ∧ s.skipRem.toNat = 0 ∧ t = respond 0x4 .ok s.crcAcc s.closeFlags) := by
  cases ho : s.sessionOpen <;> cases he : s.sessionErr <;>
    simp [execCalcEnd, raiseError, Instr.opcode, ho, he] at h ⊢
  all_goals try exact h.symm
  split at h
  · next hs => exact .inl ⟨hs, by simpa using h.symm⟩
  · next hs => exact .inr ⟨by omega, by simpa using h.symm⟩

theorem execTableRead_cases {index : BitVec 32} (h : execTableRead index s = .next t) :
    (tableLength s.width ≤ index.toNat ∧ t = respond 0x5 .indexRange 0 s) ∨
    (index.toNat < tableLength s.width ∧ ∃ e, tableRead s.table index.toNat = some e ∧ t = respond 0x5 .ok e s) := by
  by_cases hi : index.toNat < tableLength s.width
  · refine .inr ⟨hi, ?_⟩
    simp only [execTableRead, indexInRange, hi, decide_true, Bool.not_true, Bool.false_eq_true, if_false] at h
    split at h
    · next e he => exact ⟨e, he, by simpa [Instr.opcode] using h.symm⟩
    · simp at h
  · refine .inl ⟨by omega, ?_⟩
    simpa [execTableRead, indexInRange, hi, raiseError, Instr.opcode] using h.symm

/-- Every command that answers a next state ends in one `respond` with its own opcode, and touches neither the parameter,
the inputs, the earlier responses nor a waiting one. -/
theorem exec_responds {i : Instr} (h : exec i s = .next t) :
    ∃ c d u, t = respond i.opcode c d u ∧ u.wMax = s.wMax ∧ u.hostInputs = s.hostInputs ∧
      u.responses = s.responses ∧ u.rspWaiting = s.rspWaiting := by
  cases i with
  | nop => exact ⟨_, _, s, execNop_cases h, rfl, rfl, rfl, rfl⟩
  | config width poly =>
    rcases execConfig_cases h with ⟨_, h⟩ | ⟨_, _, h⟩ | ⟨_, _, h⟩ <;> exact ⟨_, _, _, h, rfl, rfl, rfl, rfl⟩
  | calcBegin skip =>
    rcases execCalcBegin_cases h with ⟨_, h⟩ | ⟨_, h⟩ <;> exact ⟨_, _, _, h, rfl, rfl, rfl, rfl⟩
  | calcElem kind value =>
    rcases execCalcElem_cases h with ⟨_, h⟩ | ⟨_, _, h⟩ | ⟨_, _, _, h⟩ | ⟨_, _, _, _, h⟩ | ⟨_, _, _, _, _, _, h⟩ <;>
      exact ⟨_, _, _, h, rfl, rfl, rfl, rfl⟩
  | calcEnd =>
    rcases execCalcEnd_cases h with ⟨_, h⟩ | ⟨_, _, h⟩ | ⟨_, _, _, h⟩ | ⟨_, _, _, h⟩ <;>
      exact ⟨_, _, _, h, rfl, rfl, rfl, rfl⟩
  | tableRead index =>
    rcases execTableRead_cases h with ⟨_, h⟩ | ⟨_, _, _, h⟩ <;> exact ⟨_, _, _, h, rfl, rfl, rfl, rfl⟩

/-- In a well-formed state every index below TL reads an entry, which is below 2^width. -/
theorem State.WellFormed.tableRead (hs : s.WellFormed) {i : Nat} (hi : i < tableLength s.width) :
    ∃ e, Machine.tableRead s.table i = some e ∧ e.toNat < tableLength s.width := by
  obtain ⟨hw, _, hle, _, ht, -⟩ := hs
  have h32 : s.width ≤ 32 := by
    simp only [Config.legalWMax, decide_eq_true_eq] at hw
    omega
  rw [ht]
  exact ⟨_, tableRead_genTable hi, by rw [toNat_genEntry h32]; exact genEntry_lt ..⟩

end Sys2Proof.Machine
end

