-- ==== Sys2Proof/Laws/PerInstr.lean ====
section
/-! SUPPORT. The family `OpcodeRow`: a command's word carries its opcode in bits [63:60] and hits the row of the mask and
match table that has its mnemonic, and no other (spec/30_encoding.md R79). -/

namespace Sys2Proof.Laws.OpcodeRow

/-- The rows of the table that `i`'s word hits are exactly the one with `i`'s mnemonic. -/
def Statement (i : Instr) : Prop :=
  opField (encode i) = i.opcode ∧
    ∀ r ∈ opcodeRows, r.hits (encode i) = true ↔ r.mnemonic = i.mnemonic

/-- Only the row with the opcode can be hit, so it is enough that the command's own row is. -/
theorem of_own_row {i : Instr} (r : OpcodeRow)
    (hop : ∀ r' ∈ opcodeRows, opField r'.matchBits = i.opcode → r' = r)
    (hname : ∀ r' ∈ opcodeRows, r'.mnemonic = i.mnemonic ↔ r' = r) (hit : r.hits (encode i) = true) : Statement i := by
  refine ⟨opField_encode i, fun r' hr' => ⟨fun hh => ?_, fun he => (hname r' hr').1 he ▸ hit⟩⟩
  exact (hname r' hr').2 (hop r' hr' (by rw [← opField_of_hits hr' hh, opField_encode]))

theorem nop : Statement .nop := of_own_row (opcodeRows[0]) (by decide) (by decide) (by decide)

theorem config (width : BitVec 16) (poly : BitVec 32) : Statement (.config width poly) := by
  refine of_own_row (opcodeRows[1]) (by simp only [Instr.opcode]; decide)
    (by simp only [Instr.mnemonic]; decide) ?_
  refine (OpcodeRow.hits_iff (n := 48) (m := 16) (v := 0x1000) rfl (by decide) (by decide) _).2 ?_
  apply BitVec.eq_of_getLsbD_eq
  intro j hj
  simp only [slice, encode, BitVec.getLsbD_extractLsb', BitVec.getLsbD_append, hj]
  interval_cases j <;> simp

theorem calcBegin (skip : BitVec 32) : Statement (.calcBegin skip) := by
  refine of_own_row (opcodeRows[2]) (by simp only [Instr.opcode]; decide)
    (by simp only [Instr.mnemonic]; decide) ?_
  refine (OpcodeRow.hits_iff (n := 32) (m := 32) (v := 0x20000000) rfl (by decide) (by decide) _).2 ?_
  apply BitVec.eq_of_getLsbD_eq
  intro j hj
  simp only [slice, encode, BitVec.getLsbD_extractLsb', BitVec.getLsbD_append, hj]
  interval_cases j <;> simp

theorem calcElem (kind : Kind) (value : BitVec 32) : Statement (.calcElem kind value) := by
  refine of_own_row (opcodeRows[3]) (by simp only [Instr.opcode]; decide)
    (by simp only [Instr.mnemonic]; decide) ?_
  refine (OpcodeRow.hits_iff (n := 34) (m := 30) (v := 0x0C000000) rfl (by decide) (by decide) _).2 ?_
  apply BitVec.eq_of_getLsbD_eq
  intro j hj
  simp only [slice, encode, BitVec.getLsbD_extractLsb', BitVec.getLsbD_append, hj]
  interval_cases j <;> simp

theorem calcEnd : Statement .calcEnd := of_own_row (opcodeRows[4]) (by decide) (by decide) (by decide)

theorem tableRead (index : BitVec 32) : Statement (.tableRead index) := by
  refine of_own_row (opcodeRows[5]) (by simp only [Instr.opcode]; decide)
    (by simp only [Instr.mnemonic]; decide) ?_
  refine (OpcodeRow.hits_iff (n := 32) (m := 32) (v := 0x50000000) rfl (by decide) (by decide) _).2 ?_
  apply BitVec.eq_of_getLsbD_eq
  intro j hj
  simp only [slice, encode, BitVec.getLsbD_extractLsb', BitVec.getLsbD_append, hj]
  interval_cases j <;> simp

end Sys2Proof.Laws.OpcodeRow
end

