-- ==== Sys2Proof/Laws/Step.lean ====
section
/-! SUPPORT. What one step does with each input. -/

namespace Sys2Proof.Machine

variable {s : State} {rest : List HostInput}

theorem acceptCommand_command {w : CommandWord} {i : Instr} (h : decode w = .command i) :
    acceptCommand w s = exec i s := by
  simp [acceptCommand, h]

theorem acceptCommand_illegal {w : CommandWord} {r : IllegalReason} (h : decode w = .illegal r) :
    acceptCommand w s = .next (respond (opField w) .illegalCommand 0 s) := by
  simp [acceptCommand, h, illegalWord, raiseError]

/-- Everything an accepted word can do, when the block goes on. -/
theorem acceptCommand_cases {w : CommandWord} {t : State} (h : acceptCommand w s = .next t) :
    (∃ i, decode w = .command i ∧ exec i s = .next t) ∨
    (∃ r, decode w = .illegal r ∧ t = respond (opField w) .illegalCommand 0 s) := by
  cases hd : decode w with
  | command i => exact .inl ⟨i, rfl, acceptCommand_command hd ▸ h⟩
  | illegal r => exact .inr ⟨r, rfl, by simpa [acceptCommand_illegal hd] using h.symm⟩

/-- A word whose response is left waiting goes on exactly where the word does. -/
theorem acceptHeld_eq_next {w : CommandWord} {t : State} :
    acceptHeld w s = .next t ↔ ∃ u, acceptCommand w s = .next u ∧ t = u.holdResponse := by
  cases h : acceptCommand w s <;> simp [acceptHeld, h, eq_comm]

/-! ### Which input is served -/

theorem nextInput_of_free {input : HostInput} (hw : s.rspWaiting = none) (h : s.hostInputs = input :: rest) :
    s.nextInput = some (input, rest) := by
  simp [State.nextInput, hw, h]

theorem nextInput_of_empty (h : s.hostInputs = []) : s.nextInput = none := by
  cases hw : s.rspWaiting <;> simp [State.nextInput, hw, h, firstServed]

theorem nextInput_of_waiting {r : ResponseWord} (hw : s.rspWaiting = some r) :
    s.nextInput = firstServed s.hostInputs := by
  simp [State.nextInput, hw]

theorem firstServed_eq_none {inputs : List HostInput} :
    firstServed inputs = none ↔ ∀ input ∈ inputs, servedWhileWaiting input = false := by
  induction inputs with
  | nil => simp [firstServed]
  | cons input rest ih => cases h : servedWhileWaiting input <;> simp [firstServed, h, ih]

/-- The first input that can be served is taken from behind the commands before it, which stay in their order. -/
theorem firstServed_append {pre post : List HostInput} {input : HostInput}
    (hpre : ∀ j ∈ pre, servedWhileWaiting j = false) (h : servedWhileWaiting input = true) :
    firstServed (pre ++ input :: post) = some (input, pre ++ post) := by
  induction pre with
  | nil => simp [firstServed, h]
  | cons j pre ih =>
    simp only [List.mem_cons, forall_eq_or_imp] at hpre
    simp [firstServed, hpre.1, ih hpre.2]

/-- What is served while a response waits is no command. -/
theorem servedWhileWaiting_of_firstServed {inputs left : List HostInput} {input : HostInput}
    (h : firstServed inputs = some (input, left)) : servedWhileWaiting input = true := by
  induction inputs generalizing left with
  | nil => simp [firstServed] at h
  | cons j rest ih =>
    cases hj : servedWhileWaiting j with
    | true =>
      simp only [firstServed, hj, if_true, Option.some.injEq, Prod.mk.injEq] at h
      exact h.1 ▸ hj
    | false =>
      simp only [firstServed, hj, Bool.false_eq_true, if_false, Option.map_eq_some_iff, Prod.mk.injEq] at h
      obtain ⟨p, hp, rfl, _⟩ := h
      exact ih hp

/-! ### One step -/

theorem step_of_nextInput {input : HostInput} (h : s.nextInput = some (input, rest)) :
    step s = serveInput input (s.takeInput rest) := by
  simp [step, h]

theorem step_of_none (h : s.nextInput = none) : step s = .next s := by
  simp [step, h]

/-- With no response waiting the first input is served. -/
theorem step_of_input {input : HostInput} (hw : s.rspWaiting = none) (h : s.hostInputs = input :: rest) :
    step s = serveInput input (s.takeInput rest) :=
  step_of_nextInput (nextInput_of_free hw h)

/-- A command is served only while no response waits, and then it is the first input. -/
theorem free_of_nextInput {input : HostInput} (h : s.nextInput = some (input, rest))
    (hc : servedWhileWaiting input = false) : s.rspWaiting = none ∧ s.hostInputs = input :: rest := by
  cases hw : s.rspWaiting with
  | none =>
    cases hin : s.hostInputs with
    | nil => simp [nextInput_of_empty hin] at h
    | cons j left => simpa [nextInput_of_free hw hin] using h
  | some r =>
    rw [nextInput_of_waiting hw] at h
    simp [servedWhileWaiting_of_firstServed h] at hc

/-- Everything a step can do, when it goes on: nothing, a reset, a response taken, or a word accepted, its response taken
or left waiting. -/
theorem step_cases {t : State} (h : step s = .next t) :
    (s.nextInput = none ∧ t = s) ∨
    (∃ rest, s.nextInput = some (.reset, rest) ∧ t = (s.takeInput rest).resetBlock) ∨
    (∃ rest, s.nextInput = some (.takeResponse, rest) ∧ t = (s.takeInput rest).takeResponse) ∨
    (∃ w rest, s.rspWaiting = none ∧ s.hostInputs = .command w :: rest ∧
      acceptCommand w (s.takeInput rest) = .next t) ∨
    (∃ w rest u, s.rspWaiting = none ∧ s.hostInputs = .commandOnly w :: rest ∧
      acceptCommand w (s.takeInput rest) = .next u ∧ t = u.holdResponse) := by
  cases hn : s.nextInput with
  | none => exact .inl ⟨rfl, by simpa [step_of_none hn] using h.symm⟩
  | some p =>
    obtain ⟨input, rest⟩ := p
    rw [step_of_nextInput hn] at h
    cases input with
    | reset => exact .inr (.inl ⟨rest, rfl, by simpa [serveInput] using h.symm⟩)
    | takeResponse => exact .inr (.inr (.inl ⟨rest, rfl, by simpa [serveInput] using h.symm⟩))
    | command w =>
      obtain ⟨hw, hin⟩ := free_of_nextInput hn rfl
      exact .inr (.inr (.inr (.inl ⟨w, rest, hw, hin, h⟩)))
    | commandOnly w =>
      obtain ⟨hw, hin⟩ := free_of_nextInput hn rfl
      obtain ⟨u, hu, ht⟩ := acceptHeld_eq_next.1 h
      exact .inr (.inr (.inr (.inr ⟨w, rest, u, hw, hin, hu, ht⟩)))

/-! ### Runs -/

@[simp] theorem run_zero (s : State) : Sys2Proof.core.run 0 s = .next s := rfl

/-- A run whose first step goes on is the rest of the run from there. -/
theorem run_succ {n : Nat} {s t : State} (h : step s = .next t) :
    Sys2Proof.core.run (n + 1) s = Sys2Proof.core.run n t := by
  have h' : Sys2Proof.core.step s = .next t := h
  simp only [Host.Core.run, h']

/-- A run of `n + m` steps whose first `n` go on. -/
theorem run_add {n m : Nat} {s t : State} (h : Sys2Proof.core.run n s = .next t) :
    Sys2Proof.core.run (n + m) s = Sys2Proof.core.run m t := by
  induction n generalizing s with
  | zero =>
    rw [run_zero] at h
    cases h
    rw [Nat.zero_add]
  | succ n ih =>
    rw [Nat.add_right_comm]
    cases hs : step s with
    | next u => rw [run_succ hs] at h ⊢; exact ih h
    | fault r => exact absurd h (by simp only [Host.Core.run]; rw [show Sys2Proof.core.step s = .fault r from hs]; simp)
    | refused r => exact absurd h (by simp only [Host.Core.run]; rw [show Sys2Proof.core.step s = .refused r from hs]; simp)

end Sys2Proof.Machine
end

