-- ==== Sys2Proof/Tests/Slice0.lean ====
section
/-! SUPPORT. Tests on fixed values, expected results from spec/95_test_vectors.md (V-…) or worked out by hand from the
encoding strings of spec/30_encoding.md R79; and one witness for the hypotheses of every statement that has any. -/

namespace Sys2Proof.Tests

open Sys2Proof Sys2Proof.Machine

/-! ### Helpers -/

/-- An engine of polynomial 3 and width 2, whose table is V-G6, with the given session. -/
def tiny (sessionOpen sessionErr : Bool) (skipRem : BitVec 32) (crcAcc : Entry) : State where
  wMax := 16
  cfgWidth := 2
  cfgPoly := 3
  table := [0, 3, 1, 2]
  sessionOpen := sessionOpen
  sessionErr := sessionErr
  skipRem := skipRem
  crcAcc := crcAcc
  hostInputs := []
  responses := []
  rspWaiting := none

/-- The same with inputs pending. -/
def waiting (inputs : List HostInput) (s : State) : State := { s with hostInputs := inputs }

/-- The same with the response of `begin 0` (R140) not yet taken. -/
def holding (inputs : List HostInput) (s : State) : State :=
  { s with hostInputs := inputs, rspWaiting := some 0x0002800000000000 }

/-- The last response of what was answered. -/
def answer : Result → Option ResponseWord
  | .next t => t.responses.getLast?
  | _ => none

/-- The state gone to. -/
def after : Result → Option State
  | .next t => some t
  | _ => none

/-! ### Well-formedness: each check refuses an ill-formed line, and takes the largest operand that fits -/

theorem test_wellFormed_config_poly : (AsmLine.config (2 ^ 32) 8).wellFormed = false := by decide
theorem test_wellFormed_config_poly_negative : (AsmLine.config (-1) 8).wellFormed = false := by decide
theorem test_wellFormed_config_width : (AsmLine.config 3 (2 ^ 16)).wellFormed = false := by decide
theorem test_wellFormed_config_fits : (AsmLine.config (2 ^ 32 - 1) (2 ^ 16 - 1)).wellFormed = true := by decide
theorem test_wellFormed_calcBegin : (AsmLine.calcBegin (2 ^ 32)).wellFormed = false := by decide
theorem test_wellFormed_elemInt_takes_any : (AsmLine.elemInt (-(2 ^ 40))).wellFormed = true := by decide
theorem test_wellFormed_elemChar : (AsmLine.elemChar (-1)).wellFormed = false := by decide
theorem test_wellFormed_elemX2 : (AsmLine.elemX2 (2 ^ 32)).wellFormed = false := by decide
theorem test_wellFormed_elemX3 : (AsmLine.elemX3 (2 ^ 32)).wellFormed = false := by decide
theorem test_wellFormed_tread : (AsmLine.tread (2 ^ 32)).wellFormed = false := by decide
theorem test_wellFormed_word : (AsmLine.word (2 ^ 64)).wellFormed = false := by decide

/-! ### Decoding: every constructor from a word written out bit by bit (R79), and the illegal words of V-X1 to V-X10 -/

theorem test_decode_nop :
    decode (0b0000#4 ++ 0b000000000000000000000000000000000000000000000000000000000000#60) = .command .nop := by
  decide
theorem test_decode_config :
    decode (0b0001#4 ++ 0b000000000000#12 ++ 0b0000000000001000#16 ++ 0b00000000000000000000000010011011#32) =
      .command (.config 8 0x9B) := by decide
theorem test_decode_calcBegin :
    decode (0b0010#4 ++ 0b0000000000000000000000000000#28 ++ 0b10000000000000000000000000000011#32) =
      .command (.calcBegin 0x80000003) := by decide
theorem test_decode_calcElem_int :
    decode (0b0011#4 ++ 0b00000000000000000000000000#26 ++ 0b00#2 ++ 0b00000000000000000000000000110001#32) =
      .command (.calcElem .int 0x31) := by decide
theorem test_decode_calcElem_char :
    decode (0b0011#4 ++ 0b00000000000000000000000000#26 ++ 0b01#2 ++ 0b00000000000000000000000001100001#32) =
      .command (.calcElem .char 0x61) := by decide
theorem test_decode_calcElem_unsup2 :
    decode (0b0011#4 ++ 0b00000000000000000000000000#26 ++ 0b10#2 ++ 0b00000000000000000000000000000000#32) =
      .command (.calcElem .unsup2 0) := by decide
theorem test_decode_calcElem_unsup3 :
    decode (0b0011#4 ++ 0b00000000000000000000000000#26 ++ 0b11#2 ++ 0b00000000000000000000000000000111#32) =
      .command (.calcElem .unsup3 7) := by decide
theorem test_decode_calcEnd :
    decode (0b0100#4 ++ 0b000000000000000000000000000000000000000000000000000000000000#60) = .command .calcEnd := by
  decide
theorem test_decode_tableRead :
    decode (0b0101#4 ++ 0b0000000000000000000000000000#28 ++ 0b00000000000000000000000000000001#32) =
      .command (.tableRead 1) := by decide
theorem test_decode_reserved_bits :
    [0x0000000000000001, 0x100100080000009B, 0x2000000100000000, 0x3000000400000000, 0x4000000000000001,
      0x5000000100000000].map decode = List.replicate 6 (.illegal .reservedBits) := by decide
theorem test_decode_reserved_opcodes :
    [0x6000000000000000, 0x7000000000000000, 0x8000000000000000, 0xFFFFFFFFFFFFFFFF].map decode =
      List.replicate 4 (.illegal .reservedOpcode) := by decide
/-- V-X15: no row matches an illegal word, exactly one a legal one. -/
theorem test_rows_match_once :
    [0x0000000000000001, 0x3000000400000000, 0xFFFFFFFFFFFFFFFF, 0x3000000300000000, 0x1000FFFF00000000].map
      (fun w => (opcodeRows.filter (·.hits w)).length) = [0, 0, 0, 1, 1] := by decide
theorem test_decodeTableWord : decodeTableWord 64 0x100000080000009B = some (.config 8 0x9B) := by decide
theorem test_decodeTableWord_refuses : decodeTableWord 64 0x6000000000000000 = none := by decide

/-! ### The commands, at most two tests each -/

/-- V-N1, and a word of R80. -/
theorem test_nop_after_reset : answer (step (State.reset.withFetchWord 64 0)) = some 0x0000000000000000 := by decide
/-- V-N3: open and failed. -/
theorem test_nop_failed_session : answer (exec .nop (tiny true true 0 0)) = some 0x0000C00000000000 := by decide

/-- V-G8: `config 5, 3`. -/
theorem test_config_table :
    (after (exec (.config 3 5) (tiny false false 0 0))).map (fun t => (t.table, t.cfgWidth, t.cfgPoly)) =
      some ([0, 5, 7, 2, 3, 6, 4, 1], 3, 5) := by decide +kernel
/-- V-E2 and V-E9: width 17 with W_MAX 16, outside a session and in one. -/
theorem test_config_refused :
    [tiny false false 0 0, tiny true false 0 0].map (fun s => answer (exec (.config 17 0x9B) s)) =
      [some 0x0101000000000000, some 0x0501800000000000] := by decide

/-- The worked example of R140: `begin 3`. -/
theorem test_calcBegin :
    let r := exec (.calcBegin 3) (tiny false false 9 2)
    answer r = some 0x0002800000000000 ∧ (after r).map (fun t => (t.skipRem, t.crcAcc)) = some (3, 0) := by decide
/-- V-E8: SKIP_REM stays 2. -/
theorem test_calcBegin_in_session :
    let r := exec (.calcBegin 0) (tiny true false 2 0)
    answer r = some 0x0502800000000000 ∧ (after r).map (·.skipRem) = some 2 := by decide

/-- V-C20: in `config 3, 2` the element 0x31 at running value 0 reads entry 1, which is 3. -/
theorem test_calcElem_folds :
    let r := exec (.calcElem .int 0x31) (tiny true false 0 0)
    answer r = some 0x0003800000000000 ∧ (after r).map (·.crcAcc) = some 3 := by decide
/-- V-E13: an unsupported element in the skipped part answers UNSUPPORTED and leaves SKIP_REM. -/
theorem test_calcElem_unsupported_in_skip :
    let r := exec (.calcElem .unsup2 0) (tiny true false 2 0)
    answer r = some 0x0203C00000000000 ∧ (after r).map (fun t => (t.sessionErr, t.skipRem)) = some (true, 2) := by
  decide

/-- R142: the running value is answered as it stands. -/
theorem test_calcEnd : answer (exec .calcEnd (tiny true false 0 2)) = some 0x0004000000000002 := by decide
/-- V-E15, V-E14 and V-E6: UNSUPPORTED before SKIP_RANGE, SKIP_RANGE, and no session. -/
theorem test_calcEnd_errors :
    [tiny true true 3 0, tiny true false 1 0, tiny false false 0 0].map (fun s => answer (exec .calcEnd s)) =
      [some 0x0204000000000000, some 0x0304000000000000, some 0x0504000000000000] := by decide

/-- V-T3: `tread 0x31` in the default engine. -/
theorem test_tableRead_default :
    answer (step (State.reset.withFetchWord 64 0x5000000000000031)) = some 0x00050000000000CD := by decide +kernel
/-- R162: TL-1 is the last legal index, TL is refused. -/
theorem test_tableRead_edge :
    [3, 4].map (fun i => answer (exec (.tableRead i) (tiny false false 0 0))) =
      [some 0x0005000000000002, some 0x0405000000000000] := by decide

/-- V-X12: an illegal word in a failed session. -/
theorem test_illegal_word_in_session :
    answer (acceptCommand 0x4000000000000001 (tiny true true 0 0)) = some 0x0604C00000000000 := by decide

/-- V-R3: the configuration does not survive reset, nor does a session (V-R4). -/
theorem test_reset_input :
    (after (step (waiting [.reset] (tiny true false 1 2)))).map (fun t => (t.cfgWidth, t.sessionOpen, t.table[0xFF]?)) =
      some (8, false, some 0x7B) := by decide +kernel

/-- R204, R221: a response left waiting, by `nop` in an open session (V-N2); a command kept off while one waits, and let on
when it is taken. -/
theorem test_response_left_waiting :
    (after (step (waiting [.commandOnly 0] (tiny true false 0 0)))).map (fun t => (t.responses, t.rspWaiting)) =
      some ([], some 0x0000800000000000) := by decide
theorem test_response_taken :
    (after (step (holding [.command 0, .takeResponse] (tiny true false 0 0)))).map
      (fun t => (t.hostInputs, t.responses, t.rspWaiting)) = some ([.command 0], [0x0002800000000000], none) := by decide

/-- V-G20: the running value of GenEntry(0x9B, 8, 2) after step 7, its last one before the mask, and the entry. -/
theorem test_genEntry_trace :
    (genStep 0x9B 8)^[7] 2 = 0x19B ∧ (genStep 0x9B 8)^[8] 2 = 0x3AD ∧ genEntry 0x9B 8 2 = 0xAD := by decide
/-- V-G16, an entry of a 32-bit table. -/
theorem test_genEntry_wide : genEntry 0x04C11DB7 32 0xFFFFFFFF = 0xC704DD7B := by decide +kernel
/-- V-S1 and V-S2 on the reset state's table. -/
theorem test_checksumOf_source_examples :
    checksumOf State.reset.table 8 [0x31, 0x32, 0x33, 0x34, 0x35] 0 = some 218 ∧
    checksumOf State.reset.table 8 [0x31, 0x32, 0x33, 0x34, 0x35] 3 = some 194 := by decide +kernel

/-! ### The host driver, the dump and the assembler -/

/-- R120 and V-E24: characters, a text of length 2, a negative integer. -/
theorem test_calculateCommands :
    calculateCommands (.seq [.int (-1), .text ['a'], .text ['a', 'b']]) (.int 1) =
      some [.calcBegin 1, .calcElem .int 0xFFFFFFFF, .calcElem .char 0x61, .calcElem .unsup2 0, .calcEnd] := by decide
/-- V-E22, and R107's defaults with W_MAX = 4, which refuses the default width. -/
theorem test_newCall :
    newCall (some (-1)) none (tiny false false 0 0) = .next (some .configurationError, tiny false false 0 0) ∧
    ∃ t, newCall none none { tiny false false 0 0 with wMax := 4 } = .next (some .configurationError, t) ∧
      t.responses = [0x0101000000000000] :=
  ⟨rfl, _, rfl, by decide⟩
/-- R164's examples. -/
theorem test_hexText :
    hexText 0 = ['0', 'x', '0'] ∧ hexText 155 = ['0', 'x', '9', 'B'] ∧ hexText 0x8005 = ['0', 'x', '8', '0', '0', '5'] := by
  decide
/-- R85: the length is that of the last CONFIG that answered OK; the second one is refused. -/
theorem test_knownLength :
    knownLength 256 [(0x1000000400000003, 0x0001000000000000), (0x100000000000009B, 0x0101000000000000)] = 16 := by
  decide
/-- V-D3. -/
theorem test_dumpText : String.ofList (dumpText [0, 3, 1, 2]) = "0x0 0x3 0x1 0x2\n" := by decide
/-- Lines of text: R84, R85's example `calc "ab", 1` (V-C14), a mixed list, and an operand that does not fit. -/
theorem test_assembleText :
    assembleText 4 "config 0x9B, 8 ; the default".toList = some [0x100000080000009B] ∧
    assembleText 4 "calc \"ab\", 1".toList =
      some [0x2000000000000001, 0x3000000100000061, 0x3000000100000062, 0x4000000000000000] ∧
    assembleText 4 "calc [0x31, 'a']".toList =
      some [0x2000000000000000, 0x3000000000000031, 0x3000000100000061, 0x4000000000000000] ∧
    assembleText 4 "begin 0x100000000".toList = none := by decide +kernel

/-! ### Witnesses: a concrete state and operands that meet every hypothesis of a statement, by clause -/

/-- Well-formed states with no session, an open one and a failed one: for WellFormedStepGoesOn, DumpRendersTheTable and
every statement about a well-formed state. -/
theorem witness_wellFormed :
    (tiny false false 0 0).WellFormed ∧ (tiny true false 5 3).WellFormed ∧ (tiny true true 0 0).WellFormed := by
  decide +kernel

/-- Every premise of DecodeIsTotalDisjointInvertible, the first and the last of the reserved opcodes among them. -/
theorem witness_DecodeIsTotalDisjointInvertible :
    [0x0000000000000000, 0x100000080000009B, 0x2000000000000003, 0x3000000100000061, 0x4000000000000000,
      0x5000000000000001, 0x6000000000000000, 0xFFFFFFFFFFFFFFFF].map (fun w => slice w 60 4) =
        [0, 1, 2, 3, 4, 5, 6, 15] ∧
    (∃ r ∈ opcodeRows, r.hits 0x2000000000000003 = true) ∧
    decode 0x2000000000000003 = .command (.calcBegin 3) := by decide

theorem witness_StepRunsDecodedCommand :
    (waiting [.command 0x4000000000000000] (tiny true false 0 0)).rspWaiting = none ∧
    (waiting [.command 0x4000000000000000] (tiny true false 0 0)).hostInputs = .command 0x4000000000000000 :: [] ∧
    decode 0x4000000000000000 = .command .calcEnd := by decide

theorem witness_FetchWordRunsNext : decodeTableWord 64 0x5000000000000001 = some (.tableRead 1) := by decide

theorem witness_IdleStepKeepsState : State.reset.hostInputs = [] := rfl

/-- Both clauses, and a word that is not reserved. -/
theorem witness_IllegalWordsAnswerIllegalCommand :
    reservedWord 0x6000000000000000 ∧ reservedWord 0x3000000400000000 ∧ ¬ reservedWord 0x3000000300000000 ∧
    ∃ (s t : State) (r : ResponseWord), s.rspWaiting = none ∧ s.hostInputs = .command 0x6000000000000000 :: [] ∧
      step s = .next t ∧ t.responses = s.responses ++ [r] ∧ rspCode r = 0x06 :=
  ⟨by decide, by decide, by decide, waiting [.command 0x6000000000000000] (tiny false false 0 0), _, _, rfl, rfl, rfl,
    rfl, by decide⟩

theorem witness_EveryWordGetsOneResponse :
    (waiting [.command 0x6000000000000000] (tiny true true 0 0)).WellFormed ∧
    (waiting [.command 0x6000000000000000] (tiny true true 0 0)).rspWaiting = none ∧
    (waiting [.command 0x6000000000000000] (tiny true true 0 0)).hostInputs = .command 0x6000000000000000 :: [] := by
  decide +kernel

/-- Every command answers OK somewhere, one command another code, and an illegal word its own. -/
theorem witness_ResponseDataByCommand :
    ([(Instr.nop, tiny false false 0 0), (.config 1 1, tiny false false 0 0), (.calcBegin 0, tiny false false 0 0),
      (.calcElem .int 0, tiny true false 0 0), (.calcEnd, tiny true false 0 2), (.tableRead 3, tiny false false 0 0)].map
        fun p => (answer (exec p.1 p.2)).map rspCode) = List.replicate 6 (some 0x00) ∧
    (answer (exec .calcEnd (tiny false false 0 0))).map rspCode = some 0x05 ∧
    reservedWord 0x6000000000000000 ∧
    (∃ t, acceptCommand 0x6000000000000000 (tiny false false 0 0) = .next t) := by
  refine ⟨by decide +kernel, by decide, by decide, _, rfl⟩

/-- For HostKnowsTableLength too. -/
theorem witness_RunAnswersEveryWordInOrder :
    (waiting ([0x2000000000000000, 0x6000000000000000].map .command) (tiny false false 0 0)).WellFormed ∧
    (waiting ([0x2000000000000000, 0x6000000000000000].map .command) (tiny false false 0 0)).rspWaiting = none := by
  decide +kernel

/-- At W_MAX = 8, the bound. -/
theorem witness_ResetIsDefaultEngine :
    let s : State := { tiny false false 0 0 with wMax := 8 }
    s.WellFormed ∧ s.sessionOpen = false ∧ 8 ≤ s.wMax := by decide +kernel

theorem witness_ResetIsWellFormed : (8 ≤ 8 ∧ 8 ≤ 32) ∧ (8 ≤ 32 ∧ 32 ≤ 32) := by decide

/-- A reset next, and one behind a command that a waiting response keeps off. -/
theorem witness_ResetInputRestoresDefaultEngine :
    (waiting [.reset] (tiny true true 1 1)).hostInputs = .reset :: [] ∧
    (holding [.command 0, .reset] (tiny true true 1 1)).rspWaiting ≠ none ∧
    (∀ input ∈ [HostInput.command 0], ∃ w, input = .command w ∨ input = .commandOnly w) ∧
    (holding [.command 0, .reset] (tiny true true 1 1)).hostInputs = [.command 0] ++ .reset :: [] :=
  ⟨rfl, by decide, by simp, rfl⟩

/-- Each clause of UntakenResponseStopsBlock. -/
theorem witness_UntakenResponseStopsBlock :
    ((waiting [.commandOnly 0] (tiny false false 0 0)).WellFormed ∧
      (waiting [.commandOnly 0] (tiny false false 0 0)).rspWaiting = none) ∧
    ((holding [.command 0, .commandOnly 0] (tiny true false 0 0)).rspWaiting = some 0x0002800000000000 ∧
      ∀ input ∈ [HostInput.command 0, .commandOnly 0], ∃ w, input = .command w ∨ input = .commandOnly w) ∧
    (holding [.command 0, .takeResponse] (tiny true false 0 0)).hostInputs = [.command 0] ++ .takeResponse :: [] ∧
    (waiting [.takeResponse] (tiny true false 0 0)).rspWaiting = none :=
  ⟨by decide +kernel, ⟨rfl, by simp⟩, rfl, rfl⟩

/-- A reset at W_MAX 16, and a command at W_MAX 2, below the reset width. -/
theorem witness_StepKeepsWellFormed :
    (∃ (s t : State), s.WellFormed ∧ s.nextInput = some (.reset, []) ∧ 8 ≤ s.wMax ∧ step s = .next t) ∧
    (∃ (s t : State), s.WellFormed ∧ s.wMax = 2 ∧ (∀ rest, s.nextInput ≠ some (.reset, rest)) ∧ step s = .next t) :=
  ⟨⟨waiting [.reset] (tiny true true 0 0), _, by decide +kernel, rfl, by decide, rfl⟩,
    ⟨waiting [.command 0x4000000000000000] { tiny true false 0 2 with wMax := 2 }, _, by decide +kernel, rfl,
      fun _ h => by simp [State.nextInput, waiting, tiny] at h, rfl⟩⟩

theorem witness_TableIsGenOfConfiguration :
    ∃ t, (waiting [.command 0x1000000100000001] (tiny false false 0 0)).WellFormed ∧
      step (waiting [.command 0x1000000100000001] (tiny false false 0 0)) = .next t :=
  ⟨_, by decide +kernel, rfl⟩

theorem witness_StepKeepsTableForm :
    ∃ t, (tiny false false 0 0).wMax ≤ 32 ∧ Memory.wf (tiny false false 0 0).width (tiny false false 0 0).table = true ∧
      step (waiting [.reset] (tiny false false 0 0)) = .next t :=
  ⟨_, by decide, by decide, rfl⟩

theorem witness_ParameterNeverChanges : ∃ t, step (waiting [.reset] (tiny false false 0 0)) = .next t := ⟨_, rfl⟩

/-- A command that is no CONFIG, and a CONFIG refused. -/
theorem witness_OnlyConfigWritesEngine :
    (∃ (t : State) (r : ResponseWord), exec (.calcBegin 1) (tiny false false 0 0) = .next t ∧ t.responses = [] ++ [r]) ∧
    (∃ (t : State) (r : ResponseWord), exec (.config 0 0x9B) (tiny false false 0 0) = .next t ∧
      t.responses = [] ++ [r] ∧ rspCode r ≠ 0x00) :=
  ⟨⟨_, _, rfl, rfl⟩, ⟨_, _, rfl, rfl, by decide⟩⟩

/-- Each command goes on, for SessionFlagsAfterCommand, SkipRemNeverWraps and ResponseDataByCommand. -/
theorem witness_each_command_goes_on :
    ∀ i ∈ [Instr.nop, .config 1 1, .calcBegin 0, .calcElem .char 0x61, .calcEnd, .tableRead 4],
      (after (exec i (tiny true false 1 3))).isSome = true := by decide +kernel

/-- The two ends of the width's range. -/
theorem witness_ConfigInstallsEngine :
    (tiny false false 0 0).wMax ≤ 32 ∧ (tiny false false 0 0).sessionOpen = false ∧
    (1 ≤ (1 : BitVec 16).toNat ∧ (1 : BitVec 16).toNat ≤ (tiny false false 0 0).wMax) ∧
    (1 ≤ (16 : BitVec 16).toNat ∧ (16 : BitVec 16).toNat ≤ (tiny false false 0 0).wMax) := by decide

/-- Width 0 and width W_MAX + 1; a response that is CONFIGURATION_ERROR; an illegal word. -/
theorem witness_ConfigRefusesInvalidWidth :
    (tiny false false 0 0).sessionOpen = false ∧ (0 : BitVec 16).toNat = 0 ∧
    (tiny false false 0 0).wMax < (17 : BitVec 16).toNat ∧
    (∃ (t : State) (r : ResponseWord), exec (.config 17 0) (tiny false false 0 0) = .next t ∧ t.responses = [] ++ [r] ∧
      rspCode r = 0x01) ∧
    (∃ t, reservedWord 0x1001000800000000 ∧ acceptCommand 0x1001000800000000 (tiny false false 0 0) = .next t) :=
  ⟨by decide, by decide, by decide, ⟨_, _, rfl, rfl, by decide⟩, ⟨_, by decide, rfl⟩⟩

/-- The same effective polynomial of width 2 from two words, in two states. -/
theorem witness_ConfigIsDeterministic :
    ∃ (t t' : State) (r r' : ResponseWord), (tiny false false 0 0).wMax ≤ 32 ∧
      (7 : BitVec 32).toNat % 2 ^ (2 : BitVec 16).toNat = (3 : BitVec 32).toNat % 2 ^ (2 : BitVec 16).toNat ∧
      exec (.config 2 7) (tiny false false 0 0) = .next t ∧ exec (.config 2 3) (tiny false false 5 1) = .next t' ∧
      t.responses = [] ++ [r] ∧ t'.responses = [] ++ [r'] ∧ rspCode r = 0x00 ∧ rspCode r' = 0x00 :=
  ⟨_, _, _, _, by decide, by decide, rfl, rfl, rfl, rfl, by decide, by decide⟩

/-- For MaskedGeneratorAgrees and GeneratorProperties, at width 1 and at the largest values of width 2. -/
theorem witness_generator_range : (1 ≤ 1 ∧ 1 < 2 ^ 1 ∧ 1 < 2 ^ 1) ∧ (1 ≤ 2 ∧ 3 < 2 ^ 2 ∧ 3 < 2 ^ 2) := by decide

/-- A store exactly as long as the table, and a longer one. -/
theorem witness_WriteLoopGeneratesTable :
    tableLength 1 ≤ ([7, 7] : Memory).length ∧ tableLength 1 ≤ ([7, 7, 9] : Memory).length := by decide

theorem witness_BeginOpensSession : (tiny false false 9 2).sessionOpen = false := rfl

/-- For UnsupportedElementFailsSession, FailedSessionDoesNotFold, SkippedElementCountsDown (with one element left to skip
and with the largest count), ElementFoldsThroughTable and ElementByteIsAllThatCounts. -/
theorem witness_element_statements :
    (tiny true true 2 0).sessionOpen = true ∧ (tiny true true 2 0).sessionErr = true ∧
    ((tiny true false 1 0).sessionErr = false ∧ (tiny true false 1 0).skipRem ≠ 0) ∧
    (tiny true false 0xFFFFFFFF 0).skipRem ≠ 0 ∧
    ((tiny true false 0 3).WellFormed ∧ (tiny true false 0 3).skipRem = 0) ∧
    (0x131 : BitVec 32).toNat % 256 = (0xFFFFFF31 : BitVec 32).toNat % 256 := by decide +kernel

/-- For EndReturnsRunningValue, EndOfFailedSession and EndWithSkipLeft. -/
theorem witness_end_statements :
    ((tiny true false 0 2).sessionOpen = true ∧ (tiny true false 0 2).sessionErr = false ∧
      (tiny true false 0 2).skipRem = 0) ∧
    ((tiny true true 3 0).sessionOpen = true ∧ (tiny true true 3 0).sessionErr = true) ∧
    ((tiny true false 1 0).sessionOpen = true ∧ (tiny true false 1 0).sessionErr = false ∧
      (tiny true false 1 0).skipRem ≠ 0) := by decide

theorem witness_SessionCommandsLeaveEngine :
    (∃ t, exec (.calcBegin 1) (tiny false false 0 0) = .next t) ∧
    (∃ t, exec (.calcElem .int 1) (tiny true false 0 0) = .next t) ∧
    (∃ t, exec .calcEnd (tiny true false 0 0) = .next t ∧ (tiny true false 0 0).sessionOpen = true) :=
  ⟨⟨_, rfl⟩, ⟨_, rfl⟩, ⟨_, rfl, rfl⟩⟩

theorem witness_NopReportsStatus : slice 0x0000000000000001 60 4 = 0 ∧ (0x0000000000000001 : CommandWord) ≠ 0 := by
  decide

/-- The first and the last legal index, and index 1. -/
theorem witness_TableReadReturnsEntry :
    (tiny true false 0 0).WellFormed ∧ (0 : BitVec 32).toNat < 2 ^ (tiny true false 0 0).width ∧
    (1 : BitVec 32).toNat < 2 ^ (tiny true false 0 0).width ∧
    (3 : BitVec 32).toNat < 2 ^ (tiny true false 0 0).width := by decide +kernel

theorem witness_TableReadRefusesIndex :
    2 ^ (tiny false false 0 0).width ≤ (4 : BitVec 32).toNat ∧
    ∃ (t : State) (r : ResponseWord), exec (.tableRead 4) (tiny false false 0 0) = .next t ∧ t.responses = [] ++ [r] ∧
      rspCode r = 0x04 :=
  ⟨by decide, _, _, rfl, rfl, by decide⟩

theorem witness_SessionOrderIsChecked :
    sequenceLegal (tiny true false 2 0).sessionOpen (.calcBegin 0) = false ∧
    ∃ (t : State) (r : ResponseWord), sequenceLegal (tiny false false 0 0).sessionOpen .nop = true ∧
      exec .nop (tiny false false 0 0) = .next t ∧ t.responses = [] ++ [r] :=
  ⟨by decide, _, _, by decide, rfl, rfl⟩

/-- Each check of ChecksRunInOrder meets its own premises, those of the later checks standing too where they can. -/
theorem witness_ChecksRunInOrder :
    (tiny true true 0 0).rspWaiting = none ∧
    (∀ p ∈ [((0x6000000000000000 : CommandWord), tiny true true 0 0), (0x1000000000000000, tiny true false 0 0),
        (0x1000000000000000, tiny false false 0 0), (0x3000000200000000, tiny true true 0 0),
        (0x5000000000000004, tiny true false 0 0), (0x4000000000000000, tiny true true 3 0),
        (0x4000000000000000, tiny true false 1 0)],
      (after (step (waiting [.command p.1] p.2))).map (fun t => t.responses.length) = some 1) ∧
    reservedWord 0x6000000000000000 ∧
    sequenceLegal true (.config 0 0) = false ∧ sequenceLegal false (.config 0 0) = true ∧
    sequenceLegal true (.calcElem .unsup2 0) = true ∧ sequenceLegal true (.tableRead 4) = true ∧
    2 ^ (tiny true false 0 0).width ≤ (4 : BitVec 32).toNat ∧ sequenceLegal true .calcEnd = true := by decide

/-- The two error outcomes that write state; a refused command; an illegal word; a whole session that fails. -/
theorem witness_ErrorsLeaveStateUnchanged :
    (∃ (t : State) (r : ResponseWord), exec (.calcElem .unsup3 0) (tiny true false 0 0) = .next t ∧
      t.responses = [] ++ [r] ∧ rspCode r = 0x02) ∧
    (∃ (t : State) (r : ResponseWord), exec .calcEnd (tiny true false 1 0) = .next t ∧ t.responses = [] ++ [r] ∧
      rspCode r = 0x03) ∧
    (∃ (t : State) (r : ResponseWord), exec .calcEnd (tiny false false 0 0) = .next t ∧ t.responses = [] ++ [r] ∧
      rspCode r ≠ 0x00 ∧ ¬ ((∃ kind value, Instr.calcEnd = .calcElem kind value) ∧ rspCode r = 0x02) ∧
      ¬ (Instr.calcEnd = .calcEnd ∧ (rspCode r = 0x02 ∨ rspCode r = 0x03))) ∧
    (∃ t, reservedWord 0x7000000000000000 ∧ acceptCommand 0x7000000000000000 (tiny false false 0 0) = .next t) ∧
    (∃ (t : State) (r : ResponseWord), (tiny false false 0 0).WellFormed ∧ (tiny false false 0 0).sessionOpen = false ∧
      issueAll (sessionCommands 1 []) (tiny false false 0 0) = .next t ∧ t.responses.getLast? = some r ∧
      rspCode r ≠ 0x00) :=
  ⟨⟨_, _, rfl, rfl, by decide⟩, ⟨_, _, rfl, rfl, by decide⟩,
    ⟨_, _, rfl, rfl, by decide, fun h => by simp at h, fun h => absurd h.2 (by decide)⟩, ⟨_, by decide, rfl⟩,
    ⟨_, _, by decide +kernel, rfl, rfl, rfl, by decide⟩⟩

/-- The three cases of R144, the last at the boundary where the skip count is the number of elements. -/
theorem witness_SessionComputesReferenceFunction :
    ((tiny false false 0 0).WellFormed ∧ (tiny false false 0 0).sessionOpen = false) ∧
    (∃ e ∈ [(Kind.int, (1 : BitVec 32)), (.unsup2, 0)], kindUnsupported e.1 = true) ∧
    ((∀ e ∈ [(Kind.int, (1 : BitVec 32))], kindUnsupported e.1 = false) ∧ [(Kind.int, (1 : BitVec 32))].length <
      (2 : BitVec 32).toNat) ∧
    ((∀ e ∈ [(Kind.int, (1 : BitVec 32))], kindUnsupported e.1 = false) ∧ (1 : BitVec 32).toNat ≤
      [(Kind.int, (1 : BitVec 32))].length) := by decide +kernel

theorem witness_SessionsAreIndependent :
    sameEngine (tiny false false 0 0) (tiny false false 7 2) ∧ (tiny false false 0 0).sessionOpen = false ∧
    (tiny false false 7 2).sessionOpen = false ∧
    (∃ t, exec (.calcBegin 1) (tiny false false 7 2) = .next t) ∧
    (∃ t, issueAll (sessionCommands 0 [(.int, 1)]) (tiny false false 0 0) = .next t) ∧
    (∃ t, issueAll (sessionCommands 0 [(.int, 1)]) (tiny false false 7 2) = .next t) :=
  ⟨by decide, rfl, rfl, ⟨_, rfl⟩, ⟨_, rfl⟩, ⟨_, rfl⟩⟩

/-- The skip count 0, and the number of bytes. -/
theorem witness_SkipIsExclusion : 0 ≤ ([1, 2] : List (BitVec 8)).length ∧ 2 ≤ ([1, 2] : List (BitVec 8)).length := by
  decide

theorem witness_EmptyInputReturnsZero :
    (tiny false false 0 0).sessionOpen = false ∧ (∀ e ∈ [(Kind.char, (0x61 : BitVec 32))], kindUnsupported e.1 = false) ∧
    [(Kind.char, (0x61 : BitVec 32))].length = (1 : BitVec 32).toNat := by decide

/-- A mixed input with a negative integer, at the largest skip count. -/
theorem witness_DriverReturnsChecksum :
    (tiny false false 0 0).WellFormed ∧ (tiny false false 0 0).sessionOpen = false ∧
    (shape (.seq [.int (-1), .text ['a']])).map (fun e => match e with
      | .int x => some (BitVec.ofInt 8 x)
      | .text [c] => some (BitVec.ofNat 8 c.toNat)
      | .text _ => none
      | .other => none) = ([0xFF, 0x61] : List (BitVec 8)).map some ∧
    2 ≤ ([0xFF, 0x61] : List (BitVec 8)).length ∧ 2 < 2 ^ 32 := by decide +kernel

theorem witness_DriverRefusesBadArguments :
    calculateCommands (.int 0x31) (.int (-1)) = none ∧ calculateCommands (.int 0x31) (.int (2 ^ 32)) = none ∧
    newCommand 0x9B (.int 0) = none ∧ newCommand 0x9B (.int (2 ^ 16)) = none ∧ newCommand (-1) (.int 8) = none := by
  decide

/-- A width of W_MAX, and one above it. -/
theorem witness_DriverConstructsEngine :
    (tiny false false 0 0).WellFormed ∧ (tiny false false 0 0).sessionOpen = false ∧ (0 : Int) ≤ 0x9B ∧
    ((1 : Int) ≤ 16 ∧ (16 : Int) < 2 ^ 16 ∧ (16 : Int) ≤ (tiny false false 0 0).wMax) ∧
    ((1 : Int) ≤ 17 ∧ (17 : Int) < 2 ^ 16 ∧ ((tiny false false 0 0).wMax : Int) < 17) := by decide +kernel

theorem witness_DumpIsRowsOfSixteen : ([5] : List (BitVec 32)) ≠ [] := by decide

theorem witness_HexTextIsMinimal : (0x9B : BitVec 32) ≠ 0 ∧ (0 : BitVec 32) = 0 := by decide

/-- A line that fits, its command, the bounds of the second clause, and a line that does not fit. -/
theorem witness_AssembledLinesDecode :
    (AsmLine.tread 1).wellFormed = true ∧ lineCommand (.tread 1) = some (.tableRead 1) ∧
    ((0 : Int) ≤ 2 ^ 32 - 1 ∧ (2 ^ 32 - 1 : Int) < 2 ^ 32 ∧ (0 : Int) ≤ 2 ^ 16 - 1 ∧ (2 ^ 16 - 1 : Int) < 2 ^ 16) ∧
    (AsmLine.calcBegin (-1)).wellFormed = false := by decide

theorem witness_CalcExpandsToDriverCommands : (0 : Int) ≤ 2 ^ 32 - 1 ∧ (2 ^ 32 - 1 : Int) < 2 ^ 32 := by decide

end Sys2Proof.Tests
end

section
/-! PROOFS. What a command does to the engine (configuration and table), and the table invariant of spec/10_state.md R25
that follows. -/

namespace Sys2Proof.Machine

variable {s t : State}

/-- The only command that writes the engine is a CONFIG that is legal and of a valid width (R22, R23, R24; spec/40 R100). -/
theorem exec_engine_cases {i : Instr} (h : exec i s = .next t) :
    sameEngine s t ∨
    ∃ width poly, i = .config width poly ∧ s.sessionOpen = false ∧ widthValid s.wMax width.toNat = true ∧
      t = respond 0x1 .ok 0 (s.setEngine (storedWidth width) (maskPoly width.toNat poly)
        (genTable (maskPoly width.toNat poly) width.toNat)) := by
  cases i with
  | nop => obtain rfl := execNop_cases h; exact .inl ⟨rfl, rfl, rfl, rfl⟩
  | config width poly =>
    rcases execConfig_cases h with ⟨_, rfl⟩ | ⟨_, _, rfl⟩ | ⟨hopen, hvalid, rfl⟩
    · exact .inl ⟨rfl, rfl, rfl, rfl⟩
    · exact .inl ⟨rfl, rfl, rfl, rfl⟩
    · exact .inr ⟨width, poly, rfl, hopen, hvalid, rfl⟩
  | calcBegin skip =>
    rcases execCalcBegin_cases h with ⟨_, rfl⟩ | ⟨_, rfl⟩ <;> exact .inl ⟨rfl, rfl, rfl, rfl⟩
  | calcElem kind value =>
    rcases execCalcElem_cases h with
      ⟨_, rfl⟩ | ⟨_, _, rfl⟩ | ⟨_, _, _, rfl⟩ | ⟨_, _, _, _, rfl⟩ | ⟨_, _, _, _, _, _, rfl⟩ <;>
      exact .inl ⟨rfl, rfl, rfl, rfl⟩
  | calcEnd =>
    rcases execCalcEnd_cases h with ⟨_, rfl⟩ | ⟨_, _, rfl⟩ | ⟨_, _, _, rfl⟩ | ⟨_, _, _, rfl⟩ <;>
      exact .inl ⟨rfl, rfl, rfl, rfl⟩
  | tableRead index =>
    rcases execTableRead_cases h with ⟨_, rfl⟩ | ⟨_, _, _, rfl⟩ <;> exact .inl ⟨rfl, rfl, rfl, rfl⟩

/-- The table is Gen of the configuration, at a width whose entries fit in 32 bits: the part of `State.WellFormed` that
R25 needs. A reset keeps it at every W_MAX, where it may break well-formedness (log entry 2). -/
def State.TableGenerated (s : State) : Prop :=
  s.width ≤ 32 ∧ s.table = genTable s.cfgPoly s.width

theorem State.WellFormed.wMax_le (hs : s.WellFormed) : s.wMax ≤ 32 :=
  (legalWMax_iff.1 hs.1).2

theorem State.WellFormed.tableGenerated (hs : s.WellFormed) : s.TableGenerated := by
  have hmax := hs.wMax_le
  obtain ⟨_, _, hwidth, _, htable, -⟩ := hs
  exact ⟨hwidth.trans hmax, htable⟩

/-- The property speaks of the engine alone. -/
theorem State.TableGenerated.of_sameEngine (hs : s.TableGenerated) (h : sameEngine s t) : t.TableGenerated := by
  obtain ⟨_, hwidth, hpoly, htable⟩ := h
  simpa only [State.TableGenerated, State.width, hwidth, hpoly, htable] using hs

/-- The engine that CONFIG installs has the generated table. -/
theorem tableGenerated_setEngine {width : BitVec 16} (poly : Entry) (hwidth : width.toNat ≤ 32) :
    (s.setEngine (storedWidth width) poly (genTable poly width.toNat)).TableGenerated := by
  simp [State.TableGenerated, toNat_storedWidth hwidth, hwidth]

theorem tableGenerated_resetBlock (s : State) : s.resetBlock.TableGenerated := by
  simp only [State.TableGenerated, State.resetBlock_width, State.resetBlock_table, State.resetBlock_cfgPoly, and_true]
  decide

theorem exec_keeps_tableGenerated {i : Instr} (hmax : s.wMax ≤ 32) (hs : s.TableGenerated) (h : exec i s = .next t) :
    t.TableGenerated := by
  rcases exec_engine_cases h with hsame | ⟨width, poly, _, _, hvalid, rfl⟩
  · exact hs.of_sameEngine hsame
  · have hwidth : width.toNat ≤ 32 := (widthValid_iff.1 hvalid).2.trans hmax
    exact (tableGenerated_setEngine (s := s) _ hwidth).of_sameEngine ⟨rfl, rfl, rfl, rfl⟩

theorem acceptCommand_keeps_tableGenerated {w : CommandWord} (hmax : s.wMax ≤ 32) (hs : s.TableGenerated)
    (h : acceptCommand w s = .next t) : t.TableGenerated := by
  rcases acceptCommand_cases h with ⟨i, _, hexec⟩ | ⟨_, _, rfl⟩
  · exact exec_keeps_tableGenerated hmax hs hexec
  · exact hs.of_sameEngine ⟨rfl, rfl, rfl, rfl⟩

theorem step_keeps_tableGenerated (hmax : s.wMax ≤ 32) (hs : s.TableGenerated) (h : step s = .next t) :
    t.TableGenerated := by
  have htaken (rest : List HostInput) : (s.takeInput rest).TableGenerated :=
    hs.of_sameEngine ⟨rfl, rfl, rfl, rfl⟩
  rcases step_cases h with
    ⟨_, rfl⟩ | ⟨rest, _, rfl⟩ | ⟨rest, _, rfl⟩ | ⟨w, rest, _, _, haccept⟩ | ⟨w, rest, u, _, _, haccept, rfl⟩
  · exact hs
  · exact tableGenerated_resetBlock _
  · exact (htaken rest).of_sameEngine ⟨rfl, rfl, rfl, rfl⟩
  · exact acceptCommand_keeps_tableGenerated (s := s.takeInput rest) hmax (htaken rest) haccept
  · have hu : u.TableGenerated := acceptCommand_keeps_tableGenerated (s := s.takeInput rest) hmax (htaken rest) haccept
    exact hu.of_sameEngine ⟨rfl, rfl, rfl, rfl⟩

theorem State.TableGenerated.table_length (hs : s.TableGenerated) : s.table.length = 2 ^ s.width := by
  rw [hs.2, genTable_length, tableLength_eq]

/-- Every entry below TL is Gen's, and as a number, not only as 32 bits. -/
theorem State.TableGenerated.entry (hs : s.TableGenerated) {i : Nat} (hi : i < 2 ^ s.width) :
    ∃ e, s.table[i]? = some e ∧ e.toNat = genEntry s.cfgPoly.toNat s.width i ∧ e.toNat < 2 ^ s.width := by
  obtain ⟨hwidth, htable⟩ := hs
  have hvalue := toNat_genEntry (p := s.cfgPoly.toNat) (i := i) hwidth
  refine ⟨BitVec.ofNat 32 (genEntry s.cfgPoly.toNat s.width i), ?_, hvalue, ?_⟩
  · rw [htable]; exact tableRead_genTable hi
  · rw [hvalue]; exact genEntry_lt ..

/-- Settles O18: a well-formed state has the generated table, every step keeps it, and each entry is read off from it. -/
theorem tableIsGenOfConfiguration : Obligations.TableIsGenOfConfiguration := by
  intro s t hs hstep
  have ht : t.TableGenerated := step_keeps_tableGenerated hs.wMax_le hs.tableGenerated hstep
  exact ⟨ht.table_length, fun _ => ht.entry⟩

end Sys2Proof.Machine
end

section
/-! PROOFS. Command words as numbers (spec/30_encoding.md R79), the words that spell no command (R76, R77), and the one
response of every word with its DATA (R80, R82, R83). -/

namespace Sys2Proof

/-- Settles O3: each word is a concatenation of its fields, which `toNat_append_eq_add` turns into a sum. -/
theorem commandWordsAsNumbers : Obligations.CommandWordsAsNumbers := by
  refine ⟨rfl, fun width poly => ?_, fun skip => ?_, fun kind value => ?_, rfl, fun index => ?_, rfl⟩ <;>
    simp only [encode, toNat_append_eq_add, BitVec.toNat_ofNat] <;> omega

/-! ### Decoding by opcode -/

theorem ifReservedClear_eq_command {clear : Bool} {i j : Instr} :
    ifReservedClear clear i = .command j ↔ clear = true ∧ i = j := by
  cases clear <;> simp [ifReservedClear]

theorem exists_ifReservedClear_eq_illegal {clear : Bool} {i : Instr} :
    (∃ why, ifReservedClear clear i = .illegal why) ↔ clear = false := by
  cases clear <;> simp [ifReservedClear]

/-- The decoder's lines (R78), by the opcode field. -/
theorem decode_cases (w : CommandWord) :
    (slice w 60 4 = 0 ∧ decode w = ifReservedClear (slice w 0 60 == 0) .nop) ∨
    (slice w 60 4 = 1 ∧
      decode w = ifReservedClear (slice w 48 12 == 0) (.config (slice w 32 16) (slice w 0 32))) ∨
    (slice w 60 4 = 2 ∧ decode w = ifReservedClear (slice w 32 28 == 0) (.calcBegin (slice w 0 32))) ∨
    (slice w 60 4 = 3 ∧
      decode w = ifReservedClear (slice w 34 26 == 0) (.calcElem (kindOfBits (slice w 32 2)) (slice w 0 32))) ∨
    (slice w 60 4 = 4 ∧ decode w = ifReservedClear (slice w 0 60 == 0) .calcEnd) ∨
    (slice w 60 4 = 5 ∧ decode w = ifReservedClear (slice w 32 28 == 0) (.tableRead (slice w 0 32))) ∨
    (6 ≤ (slice w 60 4).toNat ∧ decode w = .illegal .reservedOpcode) := by
  simp only [← BitVec.toNat_inj]
  unfold decode opField
  split
  case h_7 h0 h1 h2 h3 h4 h5 =>
    change _ ≠ _ at h0 h1 h2 h3 h4 h5
    have hop : 6 ≤ (slice w 60 4).toNat := by omega
    exact .inr (.inr (.inr (.inr (.inr (.inr ⟨hop, rfl⟩)))))
  all_goals next hop => simp [hop]

/-- A command's opcode is the OP field of the word that spells it. -/
theorem opcode_of_decode {w : CommandWord} {i : Instr} (h : decode w = .command i) : i.opcode = opField w := by
  rcases decode_cases w with ⟨hop, hd⟩ | ⟨hop, hd⟩ | ⟨hop, hd⟩ | ⟨hop, hd⟩ | ⟨hop, hd⟩ | ⟨hop, hd⟩ | ⟨_, hd⟩
  case inr.inr.inr.inr.inr.inr => simp [hd] at h
  all_goals
    obtain ⟨-, rfl⟩ := ifReservedClear_eq_command.1 (hd.symm.trans h)
    exact hop.symm

end Sys2Proof

namespace Sys2Proof.Machine

/-- The words with a reserved OP or a reserved bit set are those that decode to Illegal (R76, R77). -/
theorem reservedWord_iff_illegal {w : CommandWord} : reservedWord w ↔ ∃ why, decode w = .illegal why := by
  rcases decode_cases w with ⟨hop, hd⟩ | ⟨hop, hd⟩ | ⟨hop, hd⟩ | ⟨hop, hd⟩ | ⟨hop, hd⟩ | ⟨hop, hd⟩ | ⟨hop, hd⟩
  case inr.inr.inr.inr.inr.inr => exact ⟨fun _ => ⟨_, hd⟩, fun _ => .inl hop⟩
  all_goals
    rw [hd, exists_ifReservedClear_eq_illegal]
    simp [reservedWord, hop]

theorem reservedWord_iff_no_command {w : CommandWord} : reservedWord w ↔ ∀ i, decode w ≠ .command i := by
  rw [reservedWord_iff_illegal]
  cases decode w <;> simp

/-! ### The response of a command -/

variable {s t : State}

theorem codeBits_eq_zero_iff {c : Code} : codeBits c = 0x00 ↔ c = .ok :=
  ⟨fun h => codeBits_injective (b := .ok) h, fun h => h ▸ rfl⟩

/-- R80's layout, each flag a field of its own. -/
theorem responseWord_flagBits (c : Code) (echo : BitVec 4) (data : BitVec 32) (s : State) :
    responseWord c echo s.flagBits data =
      codeBits c ++ 0#4 ++ echo ++ BitVec.ofBool s.sessionOpen ++ BitVec.ofBool s.sessionErr ++ 0#14 ++ data := by
  apply BitVec.eq_of_toNat_eq
  simp only [responseWord, State.flagBits, toNat_append_eq_add]
  omega

/-- What DATA is where the command answers OK (R83), for the states before and after it. -/
def OkData (s t : State) (data : BitVec 32) : Instr → Prop
  | .nop => data = 0
  | .config _ _ => data = 0
  | .calcBegin _ => data = 0
  | .calcElem _ _ => data = 0
  | .calcEnd => data = s.crcAcc ∧ t.sessionOpen = false
  | .tableRead index => tableRead s.table index.toNat = some data

/-- What the code and DATA of a command's response can be. -/
structure CommandAnswer (i : Instr) (s t : State) (c : Code) (data : BitVec 32) : Prop where
  ne_illegalCommand : c ≠ .illegalCommand
  data_of_error : c ≠ .ok → data = 0
  data_of_ok : c = .ok → OkData s t data i

theorem CommandAnswer.ok {i : Instr} {data : BitVec 32} (h : OkData s t data i) : CommandAnswer i s t .ok data :=
  ⟨by decide, fun hne => absurd rfl hne, fun _ => h⟩

theorem CommandAnswer.error {i : Instr} {c : Code} (hok : c ≠ .ok) (hlegal : c ≠ .illegalCommand) :
    CommandAnswer i s t c 0 :=
  ⟨hlegal, fun _ => rfl, fun h => absurd h hok⟩

/-- The one response of a command: its opcode, the flags after it (R82), and the code and DATA it may have. -/
theorem exec_response {i : Instr} (h : exec i s = .next t) :
    ∃ c data, t.responses = s.responses ++ [responseWord c i.opcode t.flagBits data] ∧
      CommandAnswer i s t c data := by
  cases i with
  | nop => obtain rfl := execNop_cases h; exact ⟨_, _, rfl, .ok rfl⟩
  | config width poly =>
    rcases execConfig_cases h with ⟨_, rfl⟩ | ⟨_, _, rfl⟩ | ⟨_, _, rfl⟩
    · exact ⟨_, _, rfl, .error (by decide) (by decide)⟩
    · exact ⟨_, _, rfl, .error (by decide) (by decide)⟩
    · exact ⟨_, _, rfl, .ok rfl⟩
  | calcBegin skip =>
    rcases execCalcBegin_cases h with ⟨_, rfl⟩ | ⟨_, rfl⟩
    · exact ⟨_, _, rfl, .error (by decide) (by decide)⟩
    · exact ⟨_, _, rfl, .ok rfl⟩
  | calcElem kind value =>
    rcases execCalcElem_cases h with
      ⟨_, rfl⟩ | ⟨_, _, rfl⟩ | ⟨_, _, _, rfl⟩ | ⟨_, _, _, _, rfl⟩ | ⟨_, _, _, _, _, _, rfl⟩
    · exact ⟨_, _, rfl, .error (by decide) (by decide)⟩
    · exact ⟨_, _, rfl, .error (by decide) (by decide)⟩
    · exact ⟨_, _, rfl, .ok rfl⟩
    · exact ⟨_, _, rfl, .ok rfl⟩
    · exact ⟨_, _, rfl, .ok rfl⟩
  | calcEnd =>
    rcases execCalcEnd_cases h with ⟨_, rfl⟩ | ⟨_, _, rfl⟩ | ⟨_, _, _, rfl⟩ | ⟨_, _, _, rfl⟩
    · exact ⟨_, _, rfl, .error (by decide) (by decide)⟩
    · exact ⟨_, _, rfl, .error (by decide) (by decide)⟩
    · exact ⟨_, _, rfl, .error (by decide) (by decide)⟩
    · exact ⟨_, _, rfl, .ok ⟨rfl, rfl⟩⟩
  | tableRead index =>
    rcases execTableRead_cases h with ⟨_, rfl⟩ | ⟨_, _, hread, rfl⟩
    · exact ⟨_, _, rfl, .error (by decide) (by decide)⟩
    · exact ⟨_, _, rfl, .ok hread⟩

/-- No command answers ILLEGAL_COMMAND. -/
theorem rspCode_ne_illegalCommand_of_exec {i : Instr} {r : ResponseWord} (h : exec i s = .next t)
    (hr : t.responses = s.responses ++ [r]) : rspCode r ≠ codeBits .illegalCommand := by
  obtain ⟨c, data, hresponses, hanswer⟩ := exec_response h
  obtain rfl : r = responseWord c i.opcode t.flagBits data := by simpa using hr.symm.trans hresponses
  rw [rspCode_responseWord]
  exact fun hc => hanswer.ne_illegalCommand (codeBits_injective hc)

/-- Settles O11: the answer of a command by `exec_response`, that of a word that spells none by `acceptCommand_illegal`. -/
theorem responseDataByCommand : Obligations.ResponseDataByCommand := by
  refine ⟨fun s t w hw h => ?_, fun s t i h => ?_⟩
  · obtain ⟨why, hd⟩ := reservedWord_iff_illegal.1 hw
    obtain rfl : respond (opField w) .illegalCommand 0 s = t := by simpa [acceptCommand_illegal hd] using h
    exact ⟨_, respond_responses .., by rw [rspCode_responseWord]; decide, rspData_responseWord ..⟩
  · obtain ⟨c, data, hresponses, hanswer⟩ := exec_response h
    refine ⟨_, hresponses, ?_, ?_⟩ <;> rw [rspCode_responseWord, rspData_responseWord]
    · exact fun hc => hanswer.data_of_error (mt codeBits_eq_zero_iff.2 hc)
    · intro hc
      have hok := hanswer.data_of_ok (codeBits_eq_zero_iff.1 hc)
      cases i <;> exact hok

/-- Settles O9: the decoder's lines give the reserved words, and no command answers ILLEGAL_COMMAND. -/
theorem illegalWordsAnswerIllegalCommand : Obligations.IllegalWordsAnswerIllegalCommand := by
  refine ⟨fun w => reservedWord_iff_no_command, fun s w rest hfree hin hw => ?_,
    fun s t w rest r hfree hin hstep hr hcode => ?_⟩
  · obtain ⟨why, hd⟩ := reservedWord_iff_illegal.1 hw
    rw [step_of_input hfree hin]
    exact acceptCommand_illegal hd
  · rw [step_of_input hfree hin] at hstep
    rcases acceptCommand_cases hstep with ⟨i, _, hexec⟩ | ⟨why, hd, _⟩
    · exact absurd hcode (rspCode_ne_illegalCommand_of_exec hexec hr)
    · exact reservedWord_iff_illegal.2 ⟨why, hd⟩

/-! ### Every word is answered -/

/-- From a well-formed state no command stops: the table index a fold or a read asks for is below TL (R52). -/
theorem exec_goes_on (hs : s.WellFormed) (i : Instr) : ∃ t, exec i s = .next t := by
  cases i with
  | nop => exact ⟨_, rfl⟩
  | config width poly =>
    simp only [exec, execConfig, raiseError]
    split_ifs <;> exact ⟨_, rfl⟩
  | calcBegin skip =>
    simp only [exec, execCalcBegin, raiseError]
    split_ifs <;> exact ⟨_, rfl⟩
  | calcElem kind value =>
    obtain ⟨e, he, -⟩ := hs.tableRead (lookupIndex_lt s.width s.crcAcc (elementByte value))
    simp only [exec, execCalcElem, raiseError, foldElement, he]
    split_ifs <;> exact ⟨_, rfl⟩
  | calcEnd =>
    simp only [exec, execCalcEnd, raiseError]
    split_ifs <;> exact ⟨_, rfl⟩
  | tableRead index =>
    simp only [exec, execTableRead, raiseError]
    cases hi : indexInRange s.width index with
    | false => exact ⟨_, rfl⟩
    | true =>
      obtain ⟨e, he, -⟩ := hs.tableRead (indexInRange_iff.1 hi)
      simp [he]

theorem acceptCommand_goes_on (hs : s.WellFormed) (w : CommandWord) : ∃ t, acceptCommand w s = .next t := by
  cases hd : decode w with
  | command i => rw [acceptCommand_command hd]; exact exec_goes_on hs i
  | illegal why => exact ⟨_, acceptCommand_illegal hd⟩

/-- An accepted word, legal or not, adds one response that echoes its OP field and shows the flags after it (R82), and
touches neither the inputs nor a waiting response. -/
theorem acceptCommand_responds {w : CommandWord} (h : acceptCommand w s = .next t) :
    t.hostInputs = s.hostInputs ∧ t.rspWaiting = s.rspWaiting ∧
      ∃ c data, t.responses = s.responses ++ [responseWord c (opField w) t.flagBits data] ∧ (c ≠ .ok → data = 0) := by
  rcases acceptCommand_cases h with ⟨i, hd, hexec⟩ | ⟨_, _, rfl⟩
  · obtain ⟨c, data, hresponses, hanswer⟩ := exec_response hexec
    obtain ⟨_, _, u, rfl, _, hinputs, _, hwaiting⟩ := exec_responds hexec
    exact ⟨hinputs, hwaiting, c, data, opcode_of_decode hd ▸ hresponses, hanswer.data_of_error⟩
  · exact ⟨rfl, rfl, _, _, rfl, fun _ => rfl⟩

/-- Settles O10: from a well-formed state the word is accepted, and its one response has the fields of R80. -/
theorem everyWordGetsOneResponse : Obligations.EveryWordGetsOneResponse := by
  intro s w rest hs hfree hin
  obtain ⟨t, ht⟩ := acceptCommand_goes_on (s := s.takeInput rest) hs w
  obtain ⟨hinputs, hwaiting, c, data, hresponses, hdata⟩ := acceptCommand_responds ht
  refine ⟨t, c, data, _, (step_of_input hfree hin).trans ht, hinputs, hresponses, hwaiting.trans hfree,
    responseWord_flagBits c (opField w) data t, rspCode_responseWord .., rspReservedClear_responseWord ..,
    rspEcho_responseWord .., ?_, ?_, rspData_responseWord .., hdata⟩
  · rw [rspOpen_responseWord, flagBits_one]
  · rw [rspErr_responseWord, flagBits_zero]

end Sys2Proof.Machine
end

section
/-! PROOFS. The table generator as a linear map on running values (spec/40_table_generator.md R103 to R105), and what a
CONFIG that answers OK installs (R100, R102, R106). -/

namespace Sys2Proof.Machine

/-! ### The generator's steps -/

/-- The step of R103 in the form of R104, without its mask. -/
theorem genStep_eq_xor (p w v : Nat) : genStep p w v = v <<< 1 ^^^ (if v.testBit (w - 1) then p else 0) := by
  unfold genStep
  split <;> simp

/-- The polynomial enters a step linearly: it is taken where the top bit is set. -/
theorem topBit_poly_xor (p k u v : Nat) :
    (if (u ^^^ v).testBit k then p else 0) = (if u.testBit k then p else 0) ^^^ (if v.testBit k then p else 0) := by
  rw [Nat.testBit_xor]
  cases u.testBit k <;> cases v.testBit k <;> simp

theorem genStep_xor (p w u v : Nat) : genStep p w (u ^^^ v) = genStep p w u ^^^ genStep p w v := by
  simp only [genStep_eq_xor, Nat.shiftLeft_xor_distrib, topBit_poly_xor]
  ac_rfl

theorem genStep_iterate_xor (p w n u v : Nat) :
    (genStep p w)^[n] (u ^^^ v) = (genStep p w)^[n] u ^^^ (genStep p w)^[n] v := by
  induction n generalizing u v with
  | zero => rfl
  | succ n ih => simp only [Function.iterate_succ_apply, genStep_xor, ih]

/-- With polynomial 0 a step only shifts. -/
theorem genStep_zero_poly (w v : Nat) : genStep 0 w v = v <<< 1 := by
  simp [genStep_eq_xor]

theorem genStep_zero_poly_iterate (w n v : Nat) : (genStep 0 w)^[n] v = v <<< n := by
  induction n generalizing v with
  | zero => rfl
  | succ n ih => rw [Function.iterate_succ_apply, genStep_zero_poly, ih, ← Nat.shiftLeft_add, Nat.add_comm]

/-- Up to the top bit, a power of two only shifts. -/
theorem genStep_iterate_one {p w n : Nat} (hn : n < w) : (genStep p w)^[n] 1 = 2 ^ n := by
  induction n with
  | zero => rfl
  | succ n ih =>
    have htop : n ≠ w - 1 := by omega
    rw [Function.iterate_succ_apply', ih (by omega)]
    simp [genStep_eq_xor, Nat.testBit_two_pow_of_ne htop, Nat.shiftLeft_eq, pow_succ]

/-- The top bit leaves the mask and brings in the polynomial. -/
theorem genStep_topBit {w : Nat} (p : Nat) (hw : 1 ≤ w) : genStep p w (2 ^ (w - 1)) = 2 ^ w ^^^ p := by
  simp [genStep_eq_xor, Nat.shiftLeft_eq, ← pow_succ, Nat.sub_add_cancel hw]

/-! ### The entries -/

theorem genEntry_xor (p w i j : Nat) : genEntry p w (i ^^^ j) = genEntry p w i ^^^ genEntry p w j := by
  rw [genEntry, genStep_iterate_xor, Nat.and_xor_distrib_right]; rfl

theorem genEntry_index_zero (p w : Nat) : genEntry p w 0 = 0 := by
  have h := genEntry_xor p w 0 0
  rwa [Nat.xor_self, Nat.xor_self] at h

theorem genEntry_zero_poly (w i : Nat) : genEntry 0 w i = 0 := by
  rw [genEntry, genStep_zero_poly_iterate, and_widthMask, tableLength_eq, Nat.shiftLeft_eq, Nat.mul_mod_left]

theorem genEntry_index_one {p w : Nat} (hw : 1 ≤ w) (hp : p < 2 ^ w) : genEntry p w 1 = p := by
  have hiter : (genStep p w)^[w] 1 = 2 ^ w ^^^ p := by
    rw [← Nat.sub_add_cancel hw, Function.iterate_succ_apply', Nat.sub_add_cancel hw,
      genStep_iterate_one (by omega), genStep_topBit p hw]
  rw [genEntry, hiter, and_widthMask, tableLength_eq, Nat.xor_mod_two_pow, Nat.mod_self, Nat.zero_xor,
    Nat.mod_eq_of_lt hp]

/-- Settles O28: entries are linear in the index, and index 1 reaches the top bit after `w - 1` shifts. -/
theorem generatorProperties : Obligations.GeneratorProperties := by
  intro w p hw hp
  exact ⟨genEntry_index_zero p w, genEntry_index_one hw hp, fun i j _ _ => genEntry_xor p w i j,
    fun i _ => genEntry_zero_poly w i⟩

/-! ### The masked generator -/

/-- A step of R104 on the masked value is the step of R103, masked: the top bit is below the mask's end, and a shift moves
no bit down. -/
theorem genStep_and_widthMask {p w : Nat} (hw : 1 ≤ w) (hp : p < 2 ^ w) (v : Nat) :
    genStep p w v &&& widthMask w = genStepHW p w (v &&& widthMask w) := by
  have htop : (v % 2 ^ w).testBit (w - 1) = v.testBit (w - 1) := by
    simp [Nat.testBit_mod_two_pow, show w - 1 < w by omega]
  have hpoly : (if v.testBit (w - 1) then p else 0) % 2 ^ w = if v.testBit (w - 1) then p else 0 :=
    Nat.mod_eq_of_lt (by split <;> omega)
  simp only [genStep_eq_xor, genStepHW, and_widthMask, tableLength_eq, htop, Nat.xor_mod_two_pow, hpoly,
    Nat.shiftLeft_eq, Nat.mod_mul_mod]

theorem genEntry_eq_genEntryHW {p w : Nat} (hw : 1 ≤ w) (hp : p < 2 ^ w) (i : Nat) :
    genEntry p w i = genEntryHW p w (i &&& widthMask w) :=
  Function.Semiconj.iterate_right (f := (· &&& widthMask w)) (genStep_and_widthMask hw hp) w i

/-- Settles O27: the mask commutes with every step, and leaves an index below 2^w alone. -/
theorem maskedGeneratorAgrees : Obligations.MaskedGeneratorAgrees := by
  intro w p i hw hp hi
  rw [genEntry_eq_genEntryHW hw hp, and_widthMask, tableLength_eq, Nat.mod_eq_of_lt hi]

/-! ### What CONFIG installs -/

variable {s t : State}

/-- CONFIG with no session open and a valid width. -/
theorem exec_config_ok {width : BitVec 16} (poly : BitVec 32) (hopen : s.sessionOpen = false)
    (hvalid : widthValid s.wMax width.toNat = true) :
    exec (.config width poly) s = .next (respond 0x1 .ok 0 (s.setEngine (storedWidth width)
      (maskPoly width.toNat poly) (genTable (maskPoly width.toNat poly) width.toNat))) := by
  simp [exec, execConfig, Instr.opcode, hopen, hvalid]

/-- Settles O24: the engine of `exec_config_ok`, with each field as the number it holds. -/
theorem configInstallsEngine : Obligations.ConfigInstallsEngine := by
  intro s width poly hmax hopen hpos hle
  have h32 : width.toNat ≤ 32 := hle.trans hmax
  refine ⟨storedWidth width, maskPoly width.toNat poly, genTable (maskPoly width.toNat poly) width.toNat,
    exec_config_ok poly hopen (widthValid_iff.2 ⟨hpos, hle⟩), toNat_storedWidth h32, ?_, genTable_length .., ?_⟩
  · exact (toNat_maskPoly h32 poly).trans (and_widthMask ..).symm
  · intro i hi
    exact ⟨_, tableRead_genTable hi, toNat_genEntry h32, (toNat_genEntry h32).trans_lt (genEntry_lt ..)⟩

/-- A CONFIG that answered OK had a valid width, and its engine is a function of its operands. -/
theorem exec_config_engine_of_ok {width : BitVec 16} {poly : BitVec 32} {r : ResponseWord}
    (h : exec (.config width poly) s = .next t) (hr : t.responses = s.responses ++ [r]) (hok : rspCode r = codeBits .ok) :
    widthValid s.wMax width.toNat = true ∧ t.table = genTable (maskPoly width.toNat poly) width.toNat ∧
      t.cfgPoly = maskPoly width.toNat poly ∧ t.cfgWidth = storedWidth width := by
  rcases execConfig_cases h with ⟨_, rfl⟩ | ⟨_, _, rfl⟩ | ⟨_, hvalid, rfl⟩
  case inr.inr => exact ⟨hvalid, rfl, rfl, rfl⟩
  all_goals
    obtain rfl : _ = r := by simpa using hr
    rw [rspCode_responseWord] at hok
    exact absurd (codeBits_injective hok) (by decide)

/-- Polynomials equal mod 2^width have the same effective polynomial (R102). -/
theorem maskPoly_congr {w : Nat} {poly poly' : BitVec 32} (hw : w ≤ 32) (h : poly.toNat % 2 ^ w = poly'.toNat % 2 ^ w) :
    maskPoly w poly = maskPoly w poly' :=
  BitVec.eq_of_toNat_eq (by rw [toNat_maskPoly hw, toNat_maskPoly hw]; exact h)

/-- Settles O26: each engine is a function of the width and the effective polynomial, which are the same. -/
theorem configIsDeterministic : Obligations.ConfigIsDeterministic := by
  intro s s' t t' width poly poly' r r' hmax hmod h h' hr hr' hok hok'
  obtain ⟨hvalid, htable, hpoly, hwidth⟩ := exec_config_engine_of_ok h hr hok
  obtain ⟨_, htable', hpoly', hwidth'⟩ := exec_config_engine_of_ok h' hr' hok'
  have hsame : maskPoly width.toNat poly = maskPoly width.toNat poly' :=
    maskPoly_congr ((widthValid_iff.1 hvalid).2.trans hmax) hmod
  exact ⟨by rw [htable, htable', hsame], by rw [hpoly, hpoly', hsame], by rw [hwidth, hwidth']⟩

end Sys2Proof.Machine
end

section
/-! PROOFS. The session commands one by one (spec/41_checksum.md R121, R140 to R142): the state each goes to in each of its
cases, what they leave alone, and which of an element's bits count. -/

namespace Sys2Proof.Machine

variable {s t : State} {kind : Kind} {value : BitVec 32}

/-! ### The byte and the kind of an element (R121) -/

theorem toNat_elementByte (value : BitVec 32) : (elementByte value).toNat = value.toNat &&& 0xFF := by
  rw [elementByte, BitVec.toNat_setWidth, Nat.and_two_pow_sub_one_eq_mod value.toNat 8]

theorem elementByte_eq_ofNat (value : BitVec 32) : elementByte value = BitVec.ofNat 8 (value.toNat &&& 0xFF) := by
  rw [← toNat_elementByte, BitVec.ofNat_toNat, BitVec.setWidth_eq]

theorem kindUnsupported_eq_false (h : kind = .int ∨ kind = .char) : kindUnsupported kind = false := by
  rcases h with rfl | rfl <;> rfl

/-! ### Each command by case -/

theorem exec_calcBegin_of_closed (skip : BitVec 32) (hopen : s.sessionOpen = false) :
    exec (.calcBegin skip) s = .next (respond 0x2 .ok 0 (s.beginSession skip)) := by
  simp [exec, execCalcBegin, Instr.opcode, hopen]

theorem exec_calcElem_of_unsupported (value : BitVec 32) (hopen : s.sessionOpen = true)
    (hkind : kindUnsupported kind = true) :
    exec (.calcElem kind value) s = .next (respond 0x3 .unsupportedInputElement 0 s.failFlag) := by
  simp [exec, execCalcElem, Instr.opcode, hopen, hkind]

theorem exec_calcElem_of_failed (value : BitVec 32) (hopen : s.sessionOpen = true)
    (hkind : kindUnsupported kind = false) (herr : s.sessionErr = true) :
    exec (.calcElem kind value) s = .next (respond 0x3 .ok 0 s) := by
  simp [exec, execCalcElem, Instr.opcode, hopen, hkind, herr]

theorem exec_calcElem_of_skip (value : BitVec 32) (hopen : s.sessionOpen = true)
    (hkind : kindUnsupported kind = false) (herr : s.sessionErr = false) (hskip : 0 < s.skipRem.toNat) :
    exec (.calcElem kind value) s = .next (respond 0x3 .ok 0 s.countSkipped) := by
  simp [exec, execCalcElem, Instr.opcode, hopen, hkind, herr, hskip]

theorem exec_calcElem_of_fold {e : Entry} (hopen : s.sessionOpen = true) (hkind : kindUnsupported kind = false)
    (herr : s.sessionErr = false) (hskip : s.skipRem.toNat = 0)
    (hread : tableRead s.table (lookupIndex s.width s.crcAcc (elementByte value)) = some e) :
    exec (.calcElem kind value) s = .next (respond 0x3 .ok 0 (s.setAcc e)) := by
  simp [exec, execCalcElem, Instr.opcode, foldElement, hopen, hkind, herr, hskip, hread]

/-- The response of CALC_END to an open session (R142). -/
def State.endResponse (s : State) : ResponseWord :=
  if s.sessionErr then responseWord .unsupportedInputElement 0x4 0b00 0
  else if 0 < s.skipRem.toNat then responseWord .skipRange 0x4 0b00 0
  else responseWord .ok 0x4 0b00 s.crcAcc

/-- A response after CALC_END's flags are cleared (R142). -/
theorem respond_closeFlags (echo : BitVec 4) (c : Code) (data : BitVec 32) (s : State) :
    respond echo c data s.closeFlags =
      { s.closeFlags with responses := s.responses ++ [responseWord c echo 0b00 data] } := by
  rw [respond, State.closeFlags_flagBits, State.closeFlags_responses]

/-- The state after CALC_END of an open session (R142): closed, whatever the outcome. -/
def State.endSession (s : State) : State := { s.closeFlags with responses := s.responses ++ [s.endResponse] }

theorem exec_calcEnd_of_open (hopen : s.sessionOpen = true) : exec .calcEnd s = .next s.endSession := by
  simp only [exec, execCalcEnd, State.endSession, State.endResponse, Instr.opcode, hopen, Bool.not_true,
    Bool.false_eq_true, if_false, respond_closeFlags]
  split_ifs <;> rfl

/-- Settles O39: only CONFIG writes the engine, and CALC_END of an open session ends in `State.endSession`. -/
theorem sessionCommandsLeaveEngine : Obligations.SessionCommandsLeaveEngine := by
  intro s t i hi h
  have hsame : sameEngine s t := by
    rcases exec_engine_cases h with hsame | ⟨width, poly, rfl, -⟩
    · exact hsame
    · simp at hi
  obtain ⟨hmax, hwidth, hpoly, htable⟩ := hsame
  refine ⟨⟨hmax, hwidth, hpoly, htable⟩, fun j => by rw [htable], ?_⟩
  rintro rfl hopen
  rw [exec_calcEnd_of_open hopen] at h
  cases h
  exact ⟨rfl, rfl⟩

/-- Settles O34: the table has an entry at the looked-up index, and the command's fold stores it. -/
theorem elementFoldsThroughTable : Obligations.ElementFoldsThroughTable := by
  intro s kind value hs hopen hkind herr hskip
  obtain ⟨e, hread, -⟩ := hs.tableRead (lookupIndex_lt s.width s.crcAcc (elementByte value))
  refine ⟨e, ?_, ?_⟩
  · rw [← toNat_elementByte]
    exact hread
  · rw [exec_calcElem_of_fold hopen (kindUnsupported_eq_false hkind) herr (by simp [hskip]) hread, respond,
      State.setAcc_flagBits, State.flagBits_of_open s hopen herr]
    rfl

/-- A supported element acts through its byte alone. -/
theorem exec_calcElem_congr {kind' : Kind} {value' : BitVec 32} (hkind : kindUnsupported kind = false)
    (hkind' : kindUnsupported kind' = false) (hbyte : elementByte value = elementByte value') :
    exec (.calcElem kind value) s = exec (.calcElem kind' value') s := by
  simp only [exec, execCalcElem, foldElement, Instr.opcode, hkind, hkind', hbyte]

/-- Settles O35: equal low bytes are equal bytes, which with the kind's support is all that CALC_ELEM reads. -/
theorem elementByteIsAllThatCounts : Obligations.ElementByteIsAllThatCounts := by
  refine ⟨fun value => ⟨toNat_elementByte value, ?_⟩, fun s kind kind' value value' hkind hkind' hlow => ?_⟩
  · exact Nat.le_of_lt_succ (elementByte value).isLt
  · have hbyte : elementByte value = elementByte value' := by
      apply BitVec.eq_of_toNat_eq
      simpa only [elementByte, BitVec.toNat_setWidth] using hlow
    exact exec_calcElem_congr (kindUnsupported_eq_false hkind) (kindUnsupported_eq_false hkind') hbyte

end Sys2Proof.Machine
end

section
/-! PROOFS. The commands that a driver issues one after the other (spec/41_checksum.md R120, spec/70_reset_and_hazards.md
R221), as the commands run one after the other on the block alone. -/

namespace Sys2Proof

/-- The decoder reads a command's word back. -/
theorem decode_encode (i : Instr) : decode (encode i) = .command i := by
  cases i with
  | nop => decide
  | config width poly =>
    obtain ⟨hclear, hwidth, hpoly⟩ := slices_encode_config width poly
    simp [decode, Instr.opcode, ifReservedClear, hclear, hwidth, hpoly]
  | calcBegin skip =>
    obtain ⟨hclear, hskip⟩ := slices_encode_calcBegin skip
    simp [decode, Instr.opcode, ifReservedClear, hclear, hskip]
  | calcElem kind value =>
    obtain ⟨hclear, hkind, hvalue⟩ := slices_encode_calcElem kind value
    simp [decode, Instr.opcode, ifReservedClear, hclear, hkind, hvalue]
  | calcEnd => decide
  | tableRead index =>
    obtain ⟨hclear, hindex⟩ := slices_encode_tableRead index
    simp [decode, Instr.opcode, ifReservedClear, hclear, hindex]

end Sys2Proof

namespace Sys2Proof.Machine

variable {s t : State}

/-! ### The host's fields take no part in a command -/

/-- The block with no input left, no response taken and none waiting. -/
def State.alone (s : State) : State := { s with hostInputs := [], responses := [], rspWaiting := none }

/-- The state with these inputs left, and these responses taken before its own. -/
def State.withHost (inputs : List HostInput) (earlier : List ResponseWord) (s : State) : State :=
  { s with hostInputs := inputs, responses := earlier ++ s.responses }

/-- The same change to the next state, where there is one. -/
def Result.mapNext (f : State → State) : Result → Result
  | .next t => .next (f t)
  | .fault r => .fault r
  | .refused r => .refused r

@[simp] theorem Result.mapNext_next (f : State → State) (t : State) : Result.mapNext f (.next t) = .next (f t) := rfl

@[simp] theorem Result.mapNext_fault (f : State → State) (r : Fault) : Result.mapNext f (.fault r) = .fault r := rfl

@[simp] theorem Result.mapNext_refused (f : State → State) (r : Refusal) :
    Result.mapNext f (.refused r) = .refused r := rfl

theorem Result.mapNext_ite (f : State → State) (p : Prop) [Decidable p] (a b : Result) :
    Result.mapNext f (if p then a else b) = if p then Result.mapNext f a else Result.mapNext f b :=
  apply_ite ..

section WithHost

variable (inputs : List HostInput) (earlier : List ResponseWord) (s : State)

@[simp] theorem State.withHost_wMax : (s.withHost inputs earlier).wMax = s.wMax := rfl
@[simp] theorem State.withHost_width : (s.withHost inputs earlier).width = s.width := rfl
@[simp] theorem State.withHost_table : (s.withHost inputs earlier).table = s.table := rfl
@[simp] theorem State.withHost_sessionOpen : (s.withHost inputs earlier).sessionOpen = s.sessionOpen := rfl
@[simp] theorem State.withHost_sessionErr : (s.withHost inputs earlier).sessionErr = s.sessionErr := rfl
@[simp] theorem State.withHost_skipRem : (s.withHost inputs earlier).skipRem = s.skipRem := rfl
@[simp] theorem State.withHost_crcAcc : (s.withHost inputs earlier).crcAcc = s.crcAcc := rfl
@[simp] theorem State.withHost_responses : (s.withHost inputs earlier).responses = earlier ++ s.responses := rfl

@[simp] theorem setEngine_withHost (width : BitVec 6) (poly : Entry) (t : Memory) :
    (s.withHost inputs earlier).setEngine width poly t = (s.setEngine width poly t).withHost inputs earlier := rfl

@[simp] theorem beginSession_withHost (skip : BitVec 32) :
    (s.withHost inputs earlier).beginSession skip = (s.beginSession skip).withHost inputs earlier := rfl

@[simp] theorem failFlag_withHost :
    (s.withHost inputs earlier).failFlag = s.failFlag.withHost inputs earlier := rfl

@[simp] theorem closeFlags_withHost :
    (s.withHost inputs earlier).closeFlags = s.closeFlags.withHost inputs earlier := rfl

@[simp] theorem countSkipped_withHost :
    (s.withHost inputs earlier).countSkipped = s.countSkipped.withHost inputs earlier := rfl

@[simp] theorem setAcc_withHost (e : Entry) :
    (s.withHost inputs earlier).setAcc e = (s.setAcc e).withHost inputs earlier := rfl

/-- A response is added after the earlier ones. -/
@[simp] theorem respond_withHost (echo : BitVec 4) (c : Code) (data : BitVec 32) :
    respond echo c data (s.withHost inputs earlier) = (respond echo c data s).withHost inputs earlier := by
  simp only [respond, State.withHost, List.append_assoc]
  rfl

/-- A command neither reads nor writes the inputs left and the responses taken before it. -/
theorem exec_withHost (i : Instr) :
    exec i (s.withHost inputs earlier) = Result.mapNext (State.withHost inputs earlier) (exec i s) := by
  cases i with
  | nop => exact congrArg Host.Outcome.next (respond_withHost ..)
  | config width poly => simp [exec, execConfig, raiseError, Result.mapNext_ite]
  | calcBegin skip => simp [exec, execCalcBegin, raiseError, Result.mapNext_ite]
  | calcElem kind value =>
    have hfold (echo : BitVec 4) : foldElement echo value (s.withHost inputs earlier) =
        Result.mapNext (State.withHost inputs earlier) (foldElement echo value s) := by
      cases h : tableRead s.table (lookupIndex s.width s.crcAcc (elementByte value)) <;>
        simp [foldElement, h]
    simp [exec, execCalcElem, raiseError, Result.mapNext_ite, hfold]
  | calcEnd => simp [exec, execCalcEnd, raiseError, Result.mapNext_ite]
  | tableRead index =>
    cases h : tableRead s.table index.toNat <;>
      simp [exec, execTableRead, raiseError, Result.mapNext_ite, h]

end WithHost

/-! ### Commands one after the other -/

/-- The commands run one after the other, stopping at the first fault or refusal. -/
def execAll : List Instr → State → Result
  | [], s => .next s
  | i :: is, s =>
    match exec i s with
    | .next t => execAll is t
    | .fault r => .fault r
    | .refused r => .refused r

@[simp] theorem execAll_nil (s : State) : execAll [] s = .next s := rfl

theorem execAll_cons {i : Instr} {is : List Instr} (h : exec i s = .next t) : execAll (i :: is) s = execAll is t := by
  simp only [execAll, h]

theorem execAll_append {is js : List Instr} (h : execAll is s = .next t) :
    execAll (is ++ js) s = execAll js t := by
  induction is generalizing s with
  | nil => cases h; rfl
  | cons i is ih =>
    cases hi : exec i s with
    | next u =>
      rw [execAll_cons hi] at h
      rw [List.cons_append, execAll_cons hi, ih h]
    | fault r => simp [execAll, hi] at h
    | refused r => simp [execAll, hi] at h

theorem execAll_withHost (inputs : List HostInput) (earlier : List ResponseWord) (is : List Instr) (s : State) :
    execAll is (s.withHost inputs earlier) = Result.mapNext (State.withHost inputs earlier) (execAll is s) := by
  induction is generalizing s with
  | nil => rfl
  | cons i is ih =>
    cases h : exec i s with
    | next u => simp [execAll, exec_withHost, h, ih]
    | fault r => simp [execAll, exec_withHost, h]
    | refused r => simp [execAll, exec_withHost, h]

/-- With no response waiting, the block serves offered commands as `execAll` runs them. -/
theorem run_offered (is : List Instr) (earlier : List ResponseWord) (s : State) (hfree : s.rspWaiting = none) :
    Sys2Proof.core.run is.length (s.withHost (is.map fun i => .command (encode i)) earlier) =
      execAll is (s.withHost [] earlier) := by
  induction is generalizing s with
  | nil => rfl
  | cons i is ih =>
    have hstep : Sys2Proof.core.step (s.withHost ((i :: is).map fun i => .command (encode i)) earlier) =
        Result.mapNext (State.withHost (is.map fun i => .command (encode i)) earlier) (exec i s) := by
      rw [← exec_withHost, ← acceptCommand_command (decode_encode i)]
      exact step_of_input (input := .command (encode i)) hfree rfl
    simp only [List.length_cons, Host.Core.run, hstep, execAll, exec_withHost]
    cases h : exec i s with
    | next u =>
      obtain ⟨_, _, _, rfl, -, -, -, hwaiting⟩ := exec_responds h
      exact ih _ (hwaiting.trans hfree)
    | fault r => rfl
    | refused r => rfl

/-- The driver's commands act on the block alone; the responses it took before stay in front. -/
theorem issueAll_eq (is : List Instr) (s : State) :
    issueAll is s = Result.mapNext (State.withHost [] s.takeResponse.responses) (execAll is s.alone) := by
  have hoffer : s.offer is =
      s.alone.withHost (is.map fun i => .command (encode i)) s.takeResponse.responses := by
    simp [State.offer, State.alone, State.withHost, State.takeResponse]
  rw [issueAll, hoffer, run_offered is _ s.alone rfl, execAll_withHost]

end Sys2Proof.Machine
end

section
/-! PROOFS. The reference function of spec/41_checksum.md R143 as a recursion over the bytes, and the sessions that compute
it (R131, R144, R145, R149). -/

namespace Sys2Proof.Machine

/-! ### The reference function byte by byte -/

/-- The loop of R143 over the bytes after the first `k`, from running value `r`. -/
def checksumFrom (tbl : Memory) (w : Nat) (bs : List (BitVec 8)) (k : Nat) (r : Entry) : Option Entry :=
  checksumLoop tbl w bs (bs.length - k) k r

theorem checksumOf_eq_checksumFrom (tbl : Memory) (w : Nat) (bs : List (BitVec 8)) (k : Nat) :
    checksumOf tbl w bs k = checksumFrom tbl w bs k 0 := rfl

/-- The loop sees the bytes from its position on alone. -/
theorem checksumLoop_cons (tbl : Memory) (w : Nat) (b : BitVec 8) (bs : List (BitVec 8)) (n j : Nat) (r : Entry) :
    checksumLoop tbl w (b :: bs) n (j + 1) r = checksumLoop tbl w bs n j r := by
  induction n generalizing j r with
  | zero => rfl
  | succ n ih => simp only [checksumLoop, List.getElem?_cons_succ, ih]

/-- A byte of the skipped part is passed over. -/
theorem checksumFrom_cons_succ (tbl : Memory) (w : Nat) (b : BitVec 8) (bs : List (BitVec 8)) (k : Nat) (r : Entry) :
    checksumFrom tbl w (b :: bs) (k + 1) r = checksumFrom tbl w bs k r := by
  rw [checksumFrom, checksumLoop_cons, List.length_cons, Nat.add_sub_add_right]
  rfl

/-- A byte after the skipped part is folded in. -/
theorem checksumFrom_cons_zero (tbl : Memory) (w : Nat) (b : BitVec 8) (bs : List (BitVec 8)) (r : Entry) :
    checksumFrom tbl w (b :: bs) 0 r =
      (tableRead tbl (lookupIndex w r b)).bind fun e => checksumFrom tbl w bs 0 e := by
  cases h : tableRead tbl (lookupIndex w r b) <;> rw [lookupIndex] at h <;>
    simp [checksumFrom, checksumLoop, checksumLoop_cons, h]

/-- With nothing left after the skipped part no byte and no table entry is read (R145). -/
theorem checksumFrom_of_length_le {bs : List (BitVec 8)} {k : Nat} (h : bs.length ≤ k) (tbl : Memory) (w : Nat)
    (r : Entry) : checksumFrom tbl w bs k r = some r := by
  rw [checksumFrom, Nat.sub_eq_zero_of_le h, checksumLoop]

/-- A table that can be read at every index gives every input a value. -/
theorem exists_checksumFrom {tbl : Memory} {w : Nat} (hread : ∀ i < tableLength w, ∃ e, tableRead tbl i = some e)
    (bs : List (BitVec 8)) (k : Nat) (r : Entry) : ∃ v, checksumFrom tbl w bs k r = some v := by
  induction bs generalizing k r with
  | nil => exact ⟨r, checksumFrom_of_length_le (Nat.zero_le k) tbl w r⟩
  | cons b bs ih =>
    cases k with
    | zero =>
      obtain ⟨e, he⟩ := hread _ (lookupIndex_lt w r b)
      simpa [checksumFrom_cons_zero, he] using ih 0 e
    | succ k => simpa [checksumFrom_cons_succ] using ih k r

/-! ### The elements of a session -/

variable {s t : State} {es : List (Kind × BitVec 32)}

/-- The commands of a session's elements (R144). -/
def elementCommands (es : List (Kind × BitVec 32)) : List Instr := es.map fun e => .calcElem e.1 e.2

/-- The elements' bytes, which count where every element is supported. -/
def elementBytes (es : List (Kind × BitVec 32)) : List (BitVec 8) := es.map fun e => elementByte e.2

theorem elementBytes_cons (e : Kind × BitVec 32) (es : List (Kind × BitVec 32)) :
    elementBytes (e :: es) = elementByte e.2 :: elementBytes es := rfl

theorem elementBytes_length (es : List (Kind × BitVec 32)) : (elementBytes es).length = es.length := List.length_map _

/-- Where the session `s` stands after the elements `es`: at `t`, with the same engine and still open. It is failed once an
element was unsupported, and until then it counts the skipped part down and then folds. -/
structure ElementsDone (es : List (Kind × BitVec 32)) (s t : State) : Prop where
  engine : sameEngine s t
  isOpen : t.sessionOpen = true
  failed : t.sessionErr = true ↔ s.sessionErr = true ∨ ∃ e ∈ es, kindUnsupported e.1 = true
  skip : t.sessionErr = false → t.skipRem.toNat = s.skipRem.toNat - es.length
  value : t.sessionErr = false →
    checksumFrom s.table s.width (elementBytes es) s.skipRem.toNat s.crcAcc = some t.crcAcc

/-- A failed session stays failed, and nothing more is said of it. -/
theorem ElementsDone.of_failed (hengine : sameEngine s t) (hopen : t.sessionOpen = true) (hfailed : t.sessionErr = true)
    (hcause : s.sessionErr = true ∨ ∃ e ∈ es, kindUnsupported e.1 = true) : ElementsDone es s t where
  engine := hengine
  isOpen := hopen
  failed := ⟨fun _ => hcause, fun _ => hfailed⟩
  skip hok := by simp [hfailed] at hok
  value hok := by simp [hfailed] at hok

/-- SKIP_REM as a number: one less, with no wrap (spec/10_state.md R29). -/
theorem toNat_countSkipped_skipRem {k : Nat} (h : s.skipRem.toNat = k + 1) : s.countSkipped.skipRem.toNat = k := by
  rw [State.countSkipped_skipRem]
  bv_omega

/-- The elements run to their end where the table has the entries that the reference function asks for, which does not
matter to a failed session. -/
theorem execAll_elementCommands (hopen : s.sessionOpen = true)
    (hvalue : s.sessionErr = false →
      ∃ v, checksumFrom s.table s.width (elementBytes es) s.skipRem.toNat s.crcAcc = some v) :
    ∃ t, execAll (elementCommands es) s = .next t ∧ ElementsDone es s t := by
  induction es generalizing s with
  | nil =>
    refine ⟨s, rfl, ⟨rfl, rfl, rfl, rfl⟩, hopen, by simp, by simp, fun _ => ?_⟩
    exact checksumFrom_of_length_le (Nat.zero_le _) ..
  | cons e es ih =>
    obtain ⟨kind, value⟩ := e
    cases hkind : kindUnsupported kind with
    | true =>
      obtain ⟨t, ht, done⟩ := ih (s := respond 0x3 .unsupportedInputElement 0 s.failFlag) hopen (by simp)
      exact ⟨t, (execAll_cons (exec_calcElem_of_unsupported value hopen hkind)).trans ht,
        .of_failed done.engine done.isOpen (done.failed.2 (.inl rfl)) (.inr ⟨_, List.mem_cons_self, hkind⟩)⟩
    | false =>
      cases herr : s.sessionErr with
      | true =>
        obtain ⟨t, ht, done⟩ := ih (s := respond 0x3 .ok 0 s) hopen (by simp [herr])
        exact ⟨t, (execAll_cons (exec_calcElem_of_failed value hopen hkind herr)).trans ht,
          .of_failed done.engine done.isOpen (done.failed.2 (.inl herr)) (.inl herr)⟩
      | false =>
        obtain ⟨v, hv⟩ := hvalue herr
        rw [elementBytes_cons] at hv
        cases hskip : s.skipRem.toNat with
        | succ k =>
          have hcount : s.countSkipped.skipRem.toNat = k := toNat_countSkipped_skipRem hskip
          rw [hskip, checksumFrom_cons_succ, ← hcount] at hv
          obtain ⟨t, ht, done⟩ := ih (s := respond 0x3 .ok 0 s.countSkipped) hopen fun _ => ⟨v, hv⟩
          refine ⟨t, (execAll_cons (exec_calcElem_of_skip value hopen hkind herr (by omega))).trans ht, done.engine,
            done.isOpen, by simpa [hkind] using done.failed, fun hok => ?_, fun hok => ?_⟩
          · have hrest : t.skipRem.toNat = k - es.length := hcount ▸ done.skip hok
            rw [hrest, hskip, List.length_cons, Nat.add_sub_add_right]
          · rw [hskip, elementBytes_cons, checksumFrom_cons_succ, ← hcount]
            exact done.value hok
        | zero =>
          rw [hskip, checksumFrom_cons_zero, Option.bind_eq_some_iff] at hv
          obtain ⟨x, hread, hv⟩ := hv
          rw [← hskip] at hv
          obtain ⟨t, ht, done⟩ := ih (s := respond 0x3 .ok 0 (s.setAcc x)) hopen fun _ => ⟨v, hv⟩
          refine ⟨t, (execAll_cons (exec_calcElem_of_fold hopen hkind herr hskip hread)).trans ht, done.engine,
            done.isOpen, by simpa [hkind] using done.failed, fun hok => ?_, fun hok => ?_⟩
          · have hrest : t.skipRem.toNat = s.skipRem.toNat - es.length := done.skip hok
            omega
          · rw [hskip, elementBytes_cons, checksumFrom_cons_zero, hread, Option.bind_some, ← hskip]
            exact done.value hok

/-! ### Whole sessions -/

theorem sessionCommands_eq (skip : BitVec 32) (es : List (Kind × BitVec 32)) :
    sessionCommands skip es = .calcBegin skip :: (elementCommands es ++ [.calcEnd]) := rfl

/-- A session from a state with none open runs to its end where the reference function has a value, and its last response
is CALC_END's at the state `u` after the elements. -/
theorem issueAll_sessionCommands (skip : BitVec 32) (hopen : s.sessionOpen = false)
    (hvalue : ∃ v, checksumFrom s.table s.width (elementBytes es) skip.toNat 0 = some v) :
    ∃ t u, issueAll (sessionCommands skip es) s = .next t ∧ ElementsDone es (s.beginSession skip) u ∧
      t.responses.getLast? = some u.endResponse ∧ sameEngine s t ∧ t.sessionOpen = false ∧ t.sessionErr = false ∧
      t.hostInputs = [] := by
  obtain ⟨u, hu, done⟩ :=
    execAll_elementCommands (s := respond 0x2 .ok 0 (s.alone.beginSession skip)) rfl fun _ => hvalue
  have hrun : execAll (sessionCommands skip es) s.alone =
      .next u.endSession := by
    rw [sessionCommands_eq, execAll_cons (exec_calcBegin_of_closed (s := s.alone) skip hopen), execAll_append hu,
      execAll_cons (exec_calcEnd_of_open done.isOpen), execAll_nil]
  refine ⟨u.endSession.withHost [] s.takeResponse.responses, u, by rw [issueAll_eq, hrun, Result.mapNext_next],
    ⟨done.engine, done.isOpen, done.failed, done.skip, done.value⟩, ?_, done.engine, rfl, rfl, rfl⟩
  simp [State.endSession]

/-- A session fails exactly by an unsupported element. -/
theorem ElementsDone.sessionErr_eq_false {skip : BitVec 32} (done : ElementsDone es (s.beginSession skip) t)
    (h : ∀ e ∈ es, kindUnsupported e.1 = false) : t.sessionErr = false := by
  rw [← Bool.not_eq_true, done.failed]
  rintro (herr | ⟨e, he, hkind⟩)
  · simp at herr
  · simp [h e he] at hkind

/-! The three answers of CALC_END (R144). -/

theorem ElementsDone.endResponse_of_unsupported {skip : BitVec 32} (done : ElementsDone es (s.beginSession skip) t)
    (h : ∃ e ∈ es, kindUnsupported e.1 = true) :
    t.endResponse = responseWord .unsupportedInputElement 0x4 0b00 0 := by
  rw [State.endResponse, if_pos (done.failed.2 (.inr h))]

theorem ElementsDone.endResponse_of_lt_skip {skip : BitVec 32} (done : ElementsDone es (s.beginSession skip) t)
    (h : ∀ e ∈ es, kindUnsupported e.1 = false) (hskip : es.length < skip.toNat) :
    t.endResponse = responseWord .skipRange 0x4 0b00 0 := by
  have hok := done.sessionErr_eq_false h
  have hleft : t.skipRem.toNat = skip.toNat - es.length := done.skip hok
  rw [State.endResponse, if_neg (by simp [hok]), if_pos (by omega)]

theorem ElementsDone.endResponse_of_skip_le {skip : BitVec 32} (done : ElementsDone es (s.beginSession skip) t)
    (h : ∀ e ∈ es, kindUnsupported e.1 = false) (hskip : skip.toNat ≤ es.length) :
    t.endResponse = responseWord .ok 0x4 0b00 t.crcAcc ∧
      checksumOf s.table s.width (elementBytes es) skip.toNat = some t.crcAcc := by
  have hok := done.sessionErr_eq_false h
  have hleft : t.skipRem.toNat = skip.toNat - es.length := done.skip hok
  refine ⟨?_, (checksumOf_eq_checksumFrom ..).trans (done.value hok)⟩
  rw [State.endResponse, if_neg (by simp [hok]), if_neg (by omega)]

/-- Settles O46: a well-formed state's table gives the reference function a value, so the session runs to its end; each
case is one of CALC_END's answers. -/
theorem sessionComputesReferenceFunction : Obligations.SessionComputesReferenceFunction := by
  intro s skip es hs hopen
  have hread (i : Nat) (hi : i < tableLength s.width) : ∃ e, tableRead s.table i = some e :=
    (hs.tableRead hi).imp fun _ he => he.left
  obtain ⟨t, u, hrun, done, hlast, hsame, hclosed, herr, hinputs⟩ :=
    issueAll_sessionCommands skip hopen (exists_checksumFrom hread (elementBytes es) skip.toNat 0)
  refine ⟨t, u.endResponse, hrun, hlast, hsame, hclosed, herr, hinputs, done.endResponse_of_unsupported,
    done.endResponse_of_lt_skip, fun h hskip => ?_⟩
  obtain ⟨hend, hvalue⟩ := done.endResponse_of_skip_le h hskip
  simp only [elementBytes, elementByte_eq_ofNat] at hvalue
  exact ⟨u.crcAcc, hvalue, hend⟩

theorem resultOfEnd_ok (echo : BitVec 4) (flags : BitVec 2) (data : BitVec 32) :
    resultOfEnd (responseWord .ok echo flags data) = some (.checksum data) := by
  simp [resultOfEnd]

/-- Settles O49: the reference function stops before its first byte, so a session has a value whatever the table holds. -/
theorem emptyInputReturnsZero : Obligations.EmptyInputReturnsZero := by
  have hsession (s : State) (es : List (Kind × BitVec 32)) (skip : BitVec 32) (hopen : s.sessionOpen = false)
      (h : ∀ e ∈ es, kindUnsupported e.1 = false) (hlength : es.length = skip.toNat) :
      ∃ t, issueAll (sessionCommands skip es) s = .next t ∧
        t.responses.getLast? = some (responseWord .ok 0x4 0b00 0) := by
    have hzero : checksumFrom s.table s.width (elementBytes es) skip.toNat 0 = some 0 :=
      checksumFrom_of_length_le (by rw [elementBytes_length, hlength]) ..
    obtain ⟨t, u, hrun, done, hlast, -⟩ := issueAll_sessionCommands skip hopen ⟨0, hzero⟩
    obtain ⟨hend, hvalue⟩ := done.endResponse_of_skip_le h hlength.ge
    have hacc : u.crcAcc = 0 := Option.some.inj (hvalue.symm.trans hzero)
    exact ⟨t, hrun, by rw [hlast, hend, hacc]⟩
  refine ⟨fun tbl w bs => checksumFrom_of_length_le le_rfl tbl w 0, hsession, fun s hopen => ?_⟩
  obtain ⟨t, hrun, hlast⟩ := hsession s [] 0 hopen (by simp) rfl
  have hcommands : calculateCommands (.seq []) (.int 0) = some (sessionCommands 0 []) := rfl
  refine ⟨t, ?_⟩
  simp only [calculate, hcommands, hrun, hlast, Option.bind_some, resultOfEnd_ok]

/-- CALC_BEGIN leaves nothing of the block but its engine. -/
theorem exec_calcBegin_congr {s' : State} (skip : BitVec 32) (hsame : sameEngine s s') (hopen : s.sessionOpen = false)
    (hopen' : s'.sessionOpen = false) :
    exec (.calcBegin skip) s.alone = exec (.calcBegin skip) s'.alone := by
  obtain ⟨hmax, hwidth, hpoly, htable⟩ := hsame
  have hbegin : s.alone.beginSession skip = s'.alone.beginSession skip := by
    simp only [State.beginSession, State.openFlags, State.alone, hmax, hwidth, hpoly, htable]
  rw [exec_calcBegin_of_closed (s := s.alone) skip hopen, exec_calcBegin_of_closed (s := s'.alone) skip hopen', hbegin]

/-- What a session does to the block alone depends on the engine only. -/
theorem execAll_sessionCommands_congr {s' : State} (skip : BitVec 32) (es : List (Kind × BitVec 32))
    (hsame : sameEngine s s') (hopen : s.sessionOpen = false) (hopen' : s'.sessionOpen = false) :
    execAll (sessionCommands skip es) s.alone = execAll (sessionCommands skip es) s'.alone := by
  rw [sessionCommands_eq, execAll, execAll, exec_calcBegin_congr skip hsame hopen hopen']

/-- The responses of the commands a driver issues follow the earlier ones. -/
theorem exists_execAll_of_issueAll {is : List Instr} (h : issueAll is s = .next t) :
    ∃ u, execAll is s.alone = .next u ∧ t.responses.drop s.takeResponse.responses.length = u.responses := by
  rw [issueAll_eq] at h
  cases hu : execAll is s.alone with
  | next u =>
    rw [hu, Result.mapNext_next] at h
    cases h
    exact ⟨u, rfl, List.drop_left ..⟩
  | fault r => simp [hu] at h
  | refused r => simp [hu] at h

/-- Settles O47: with the same engine the two sessions are one run of the block alone, and each driver sees its responses. -/
theorem sessionsAreIndependent : Obligations.SessionsAreIndependent := by
  refine ⟨fun s t skip hopen h => ?_, fun s s' t t' skip es hsame hopen hopen' h h' => ?_⟩
  · rw [exec_calcBegin_of_closed skip hopen] at h
    cases h
    rfl
  · obtain ⟨u, hu, hresponses⟩ := exists_execAll_of_issueAll h
    obtain ⟨u', hu', hresponses'⟩ := exists_execAll_of_issueAll h'
    rw [execAll_sessionCommands_congr skip es hsame hopen hopen', hu'] at hu
    cases hu
    rw [hresponses, hresponses']

/-- Settles O51: `shape` sends a scalar and its one-element sequence as the same list. -/
theorem scalarIsOneElementSequence : Obligations.ScalarIsOneElementSequence := by
  intro x skip s
  have hcommands : calculateCommands (.int x) skip = calculateCommands (.seq [.int x]) skip := rfl
  exact ⟨hcommands, by rw [calculate, calculate, hcommands]⟩

end Sys2Proof.Machine
end

section
/-! PROOFS. NOP (spec/42_diagnostic.md R160) and the text form of a value (R164). -/

namespace Sys2Proof.Machine

/-! ### NOP -/

/-- The response of NOP: OK and OPECHO 0, the two flags, and zeros below them (R80). -/
theorem responseWord_nop (s : State) :
    responseWord .ok Instr.nop.opcode s.flagBits 0 =
      0#8 ++ 0#4 ++ 0#4 ++ BitVec.ofBool s.sessionOpen ++ BitVec.ofBool s.sessionErr ++ 0#46 := by
  rw [responseWord_flagBits]
  apply BitVec.eq_of_toNat_eq
  simp only [codeBits, Instr.opcode, toNat_append_eq_add, BitVec.ofNat_eq_ofNat, BitVec.toNat_ofNat]
  omega

/-- A word whose OP field and other 60 bits are 0 is the all-zero word. -/
theorem eq_zero_of_slices {w : CommandWord} (hop : slice w 60 4 = 0) (hrest : slice w 0 60 = 0) : w = 0 := by
  have hsplit : slice w 60 4 ++ slice w 0 60 = w :=
    (BitVec.extractLsb'_append_extractLsb'_eq_extractLsb' rfl).trans BitVec.extractLsb'_eq_self
  rw [← hsplit, hop, hrest]
  rfl

/-- No session is open after reset (R210). -/
@[simp] theorem resetFor_flagBits (wMax : Nat) : (State.resetFor wMax).flagBits = 0b00 := by
  show BitVec.ofBool false ++ BitVec.ofBool false = 0b00#2
  decide

/-- Settles O40: NOP responds and does no more, and a nonzero word with OP 0 has a reserved bit set. -/
theorem nopReportsStatus : Obligations.NopReportsStatus := by
  refine ⟨rfl, fun s => ?_, fun w hop hw => ?_, fun wMax => ⟨_, rfl, ?_⟩⟩
  · rw [← responseWord_nop]
    rfl
  · have hreserved : slice w 0 60 ≠ 0 := mt (eq_zero_of_slices hop) hw
    exact reservedWord_iff_illegal.1 (.inr (.inl ⟨hop, hreserved⟩))
  · rw [respond_responses, resetFor_flagBits]
    rfl

/-! ### The hexadecimal form of a value -/

/-- The reader of numbers takes a written digit back. -/
theorem digitValue_hexDigit {n : Nat} (h : n < 16) : digitValue (hexDigit n) = some n := by
  interval_cases n <;> rfl

/-- A written digit is one of 0 to 9 and A to F (R164). -/
theorem hexDigit_mem {n : Nat} (h : n < 16) :
    hexDigit n ∈ ['0', '1', '2', '3', '4', '5', '6', '7', '8', '9', 'A', 'B', 'C', 'D', 'E', 'F'] := by
  interval_cases n <;> decide

theorem numberFrom_nil (base acc : Nat) : numberFrom base acc [] = some acc := rfl

theorem numberFrom_hexDigit_cons {n : Nat} (h : n < 16) (acc : Nat) (cs : Text) :
    numberFrom 16 acc (hexDigit n :: cs) = numberFrom 16 (acc * 16 + n) cs := by
  simp [numberFrom, digitValue_hexDigit h, h]

/-- The eight digits, most significant first, are the value. -/
theorem numberFrom_hexDigits (d : BitVec 32) : numberFrom 16 0 (hexDigits d) = some d.toNat := by
  have hlt (lo : Nat) : d.toNat / 2 ^ lo % 16 < 16 := Nat.mod_lt _ (by decide)
  simp only [hexDigits, List.map_cons, List.map_nil, numberFrom_hexDigit_cons (hlt _), numberFrom_nil]
  congr 1
  omega

/-- Leading zeros do not change the value. -/
theorem numberFrom_dropWhile_zero (cs : Text) :
    numberFrom 16 0 (cs.dropWhile (· == '0')) = numberFrom 16 0 cs := by
  induction cs with
  | nil => rfl
  | cons c cs ih =>
    by_cases hc : c = '0'
    · subst hc
      exact ih
    · simp [hc]

/-- No digit is left after the leading zeros for 0 alone, which is written `0x0` (R164). -/
theorem hexText_cases (d : BitVec 32) :
    (d = 0 ∧ hexText d = ['0', 'x', '0']) ∨
      ∃ c cs, (hexDigits d).dropWhile (· == '0') = c :: cs ∧ d ≠ 0 ∧ hexText d = '0' :: 'x' :: c :: cs := by
  have hvalue := (numberFrom_dropWhile_zero (hexDigits d)).trans (numberFrom_hexDigits d)
  unfold hexText
  cases hdigits : (hexDigits d).dropWhile (· == '0') with
  | nil =>
    rw [hdigits] at hvalue
    have hzero : 0 = d.toNat := Option.some.inj hvalue
    exact .inl ⟨BitVec.eq_of_toNat_eq hzero.symm, rfl⟩
  | cons c cs =>
    refine .inr ⟨c, cs, rfl, ?_, rfl⟩
    rintro rfl
    have hnone : (hexDigits 0).dropWhile (· == '0') = [] := by decide
    exact List.cons_ne_nil _ _ (hdigits.symm.trans hnone)

/-- Settles O55: the eight digits have the value, which leading zeros do not change, and none are left but for 0. -/
theorem hexTextIsMinimal : Obligations.HexTextIsMinimal := by
  intro d
  rcases hexText_cases d with ⟨rfl, htext⟩ | ⟨c, cs, hdigits, hne, htext⟩
  · exact ⟨['0'], htext, by simp, by simp, rfl, fun h => absurd rfl h, fun _ => rfl⟩
  · refine ⟨c :: cs, htext, by simp, fun x hx => ?_, ?_, fun _ => ?_, fun h => absurd h hne⟩
    · have hmem : x ∈ hexDigits d := (List.dropWhile_sublist _).subset (hdigits ▸ hx)
      obtain ⟨lo, -, rfl⟩ := List.mem_map.1 hmem
      exact hexDigit_mem (Nat.mod_lt _ (by decide))
    · rw [← hdigits, numberFrom_dropWhile_zero, numberFrom_hexDigits]
    · have hhead := List.head?_dropWhile_not (· == '0') (hexDigits d)
      simpa [hdigits] using hhead

end Sys2Proof.Machine
end

section
/-! PROOFS. The errors over all commands (spec/60_exceptions.md R180 to R191): which check of a command fails, with which
code, and what is left of the state. -/

namespace Sys2Proof.Machine

variable {s t u : State} {i : Instr} {c : Code} {r : ResponseWord}

/-! ### The check that fails -/

/-- A check of R191 fails for the command `i` in the state `s`: its code, and the state that is left, the response apart
(R190). -/
inductive CheckFails (s : State) : Instr → Code → State → Prop where
  | sequence {i : Instr} (hillegal : sequenceLegal s.sessionOpen i = false) : CheckFails s i .sequenceError s
  | width {width : BitVec 16} {poly : BitVec 32} (hopen : s.sessionOpen = false)
      (hwidth : width.toNat = 0 ∨ s.wMax < width.toNat) : CheckFails s (.config width poly) .configurationError s
  | element {kind : Kind} {value : BitVec 32} (hopen : s.sessionOpen = true) (hkind : kindUnsupported kind = true) :
      CheckFails s (.calcElem kind value) .unsupportedInputElement s.failFlag
  | index {index : BitVec 32} (hindex : 2 ^ s.width ≤ index.toNat) : CheckFails s (.tableRead index) .indexRange s
  | failedSession (hopen : s.sessionOpen = true) (herr : s.sessionErr = true) :
      CheckFails s .calcEnd .unsupportedInputElement s.closeFlags
  | skipLeft (hopen : s.sessionOpen = true) (herr : s.sessionErr = false) (hskip : 0 < s.skipRem.toNat) :
      CheckFails s .calcEnd .skipRange s.closeFlags

theorem widthValid_eq_false_iff {m w : Nat} : widthValid m w = false ↔ w = 0 ∨ m < w := by
  rw [← Bool.not_eq_true, widthValid_iff]
  omega

theorem kindUnsupported_iff {kind : Kind} : kindUnsupported kind = true ↔ kind = .unsup2 ∨ kind = .unsup3 := by
  cases kind <;> decide

/-- A command that is not legal in the session state is refused before anything else of it counts (R187). -/
theorem exec_of_not_legal (h : sequenceLegal s.sessionOpen i = false) :
    exec i s = .next (respond i.opcode .sequenceError 0 s) := by
  cases i with
  | nop => simp [sequenceLegal] at h
  | tableRead index => simp [sequenceLegal] at h
  | config width poly =>
    have hopen : s.sessionOpen = true := by simpa [sequenceLegal] using h
    simp [exec, execConfig, raiseError, hopen]
  | calcBegin skip =>
    have hopen : s.sessionOpen = true := by simpa [sequenceLegal] using h
    simp [exec, execCalcBegin, raiseError, hopen]
  | calcElem kind value =>
    have hopen : s.sessionOpen = false := h
    simp [exec, execCalcElem, raiseError, hopen]
  | calcEnd =>
    have hopen : s.sessionOpen = false := h
    simp [exec, execCalcEnd, raiseError, hopen]

/-- Where a check fails the command answers its code with DATA 0. -/
theorem CheckFails.exec_eq (h : CheckFails s i c u) : exec i s = .next (respond i.opcode c 0 u) := by
  cases h with
  | sequence hillegal => exact exec_of_not_legal hillegal
  | width hopen hwidth => simp [exec, execConfig, raiseError, hopen, widthValid_eq_false_iff.2 hwidth]
  | element hopen hkind => exact exec_calcElem_of_unsupported _ hopen hkind
  | index hindex => simp [exec, execTableRead, raiseError, indexInRange, tableLength_eq, Nat.not_lt.2 hindex]
  | failedSession hopen herr => simp [exec, execCalcEnd, hopen, herr]
  | skipLeft hopen herr hskip => simp [exec, execCalcEnd, hopen, herr, hskip]

/-- A command that goes on answers OK, or a check of it fails. -/
theorem exec_ok_or_checkFails (h : exec i s = .next t) :
    (∃ data u, t = respond i.opcode .ok data u ∧ u.responses = s.responses) ∨
      ∃ c u, CheckFails s i c u ∧ t = respond i.opcode c 0 u := by
  cases i with
  | nop => exact .inl ⟨_, _, execNop_cases h, rfl⟩
  | config width poly =>
    rcases execConfig_cases h with ⟨hopen, ht⟩ | ⟨hopen, hwidth, ht⟩ | ⟨-, -, ht⟩
    · exact .inr ⟨_, _, .sequence (by simp [sequenceLegal, hopen]), ht⟩
    · exact .inr ⟨_, _, .width hopen (widthValid_eq_false_iff.1 hwidth), ht⟩
    · exact .inl ⟨_, _, ht, rfl⟩
  | calcBegin skip =>
    rcases execCalcBegin_cases h with ⟨hopen, ht⟩ | ⟨-, ht⟩
    · exact .inr ⟨_, _, .sequence (by simp [sequenceLegal, hopen]), ht⟩
    · exact .inl ⟨_, _, ht, rfl⟩
  | calcElem kind value =>
    rcases execCalcElem_cases h with
      ⟨hopen, ht⟩ | ⟨hopen, hkind, ht⟩ | ⟨-, -, -, ht⟩ | ⟨-, -, -, -, ht⟩ | ⟨-, -, -, -, _, -, ht⟩
    · exact .inr ⟨_, _, .sequence hopen, ht⟩
    · exact .inr ⟨_, _, .element hopen hkind, ht⟩
    all_goals exact .inl ⟨_, _, ht, rfl⟩
  | calcEnd =>
    rcases execCalcEnd_cases h with ⟨hopen, ht⟩ | ⟨hopen, herr, ht⟩ | ⟨hopen, herr, hskip, ht⟩ | ⟨-, -, -, ht⟩
    · exact .inr ⟨_, _, .sequence hopen, ht⟩
    · exact .inr ⟨_, _, .failedSession hopen herr, ht⟩
    · exact .inr ⟨_, _, .skipLeft hopen herr hskip, ht⟩
    · exact .inl ⟨_, _, ht, rfl⟩
  | tableRead index =>
    rcases execTableRead_cases h with ⟨hindex, ht⟩ | ⟨-, _, -, ht⟩
    · exact .inr ⟨_, _, .index hindex, ht⟩
    · exact .inl ⟨_, _, ht, rfl⟩

/-- No check writes a response of its own. -/
theorem CheckFails.responses_eq (h : CheckFails s i c u) : u.responses = s.responses := by
  cases h <;> rfl

/-- The one new response has the code responded with. -/
theorem rspCode_of_respond {echo : BitVec 4} {data : BitVec 32} (hu : u.responses = s.responses)
    (hr : (respond echo c data u).responses = s.responses ++ [r]) : rspCode r = codeBits c := by
  obtain rfl : responseWord c echo u.flagBits data = r := by simpa [hu] using hr
  exact rspCode_responseWord ..

/-- Where a check fails no other code is answered. -/
theorem CheckFails.rspCode_eq (hfails : CheckFails s i c u) (h : exec i s = .next t)
    (hr : t.responses = s.responses ++ [r]) : rspCode r = codeBits c := by
  cases hfails.exec_eq.symm.trans h
  exact rspCode_of_respond hfails.responses_eq hr

/-- Only a check that fails gives a code other than OK. -/
theorem checkFails_of_error (h : exec i s = .next t) (hr : t.responses = s.responses ++ [r]) (hcode : rspCode r ≠ 0x00) :
    ∃ c u, CheckFails s i c u ∧ rspCode r = codeBits c ∧ t = { u with responses := t.responses } := by
  rcases exec_ok_or_checkFails h with ⟨data, u, rfl, hu⟩ | ⟨c, u, hfails, rfl⟩
  · exact absurd (rspCode_of_respond hu hr) hcode
  · exact ⟨c, u, hfails, hfails.rspCode_eq h hr, rfl⟩

/-- Only a check that fails gives a code other than OK, and it is the check of that code. -/
theorem checkFails_of_rspCode (h : exec i s = .next t) (hr : t.responses = s.responses ++ [r]) (hc : c ≠ .ok)
    (hcode : rspCode r = codeBits c) : ∃ u, CheckFails s i c u ∧ t = { u with responses := t.responses } := by
  obtain ⟨c', u, hfails, hcode', ht⟩ := checkFails_of_error h hr fun hok =>
    hc (codeBits_eq_zero_iff.1 (hcode.symm.trans hok))
  obtain rfl : c' = c := codeBits_injective (hcode'.symm.trans hcode)
  exact ⟨u, hfails, ht⟩

/-- A word that spells no command is answered with ILLEGAL_COMMAND (R188). -/
theorem rspCode_of_reservedWord {w : CommandWord} (hw : reservedWord w) (h : acceptCommand w s = .next t)
    (hr : t.responses = s.responses ++ [r]) : rspCode r = codeBits .illegalCommand := by
  obtain ⟨why, hd⟩ := reservedWord_iff_illegal.1 hw
  cases (acceptCommand_illegal hd).symm.trans h
  exact rspCode_of_respond rfl hr

/-! ### Each code -/

/-- Settles O25: the width check gives the code, and no other check gives it. -/
theorem configRefusesInvalidWidth : Obligations.ConfigRefusesInvalidWidth := by
  refine ⟨fun s width poly hopen hwidth => (CheckFails.width hopen hwidth).exec_eq, fun s t i r h hr hcode => ?_,
    fun s t w hw h r hr hcode => ?_⟩
  · obtain ⟨_, hfails, -⟩ := checkFails_of_rspCode (c := .configurationError) h hr (by decide) hcode
    cases hfails with
    | width hopen hwidth => exact ⟨_, _, rfl, hopen, hwidth⟩
  · have hillegal := rspCode_of_reservedWord hw h hr
    exact absurd (codeBits_injective (b := .configurationError) (hillegal.symm.trans hcode)) (by decide)

/-- Settles O42: the index check gives the code, and no other check gives it. -/
theorem tableReadRefusesIndex : Obligations.TableReadRefusesIndex := by
  refine ⟨fun s index hindex => (CheckFails.index hindex).exec_eq, fun s t i r h hr hcode => ?_⟩
  obtain ⟨_, hfails, -⟩ := checkFails_of_rspCode (c := .indexRange) h hr (by decide) hcode
  cases hfails with
  | index hindex => exact ⟨_, rfl, hindex⟩

/-- Settles O43: the session table is read off by command; its check gives the code, and no other check gives it. -/
theorem sessionOrderIsChecked : Obligations.SessionOrderIsChecked := by
  refine ⟨fun i => ?_, fun s i hillegal => exec_of_not_legal hillegal, fun s t i r hlegal h hr hcode => ?_⟩
  · cases i <;> simp [sequenceLegal]
  · obtain ⟨_, hfails, -⟩ := checkFails_of_rspCode (c := .sequenceError) h hr (by decide) hcode
    cases hfails with
    | sequence hillegal => simp [hlegal] at hillegal

/-- Settles O31: the element's check, with both flags 1 afterwards. -/
theorem unsupportedElementFailsSession : Obligations.UnsupportedElementFailsSession := by
  intro s kind value hopen hkind
  rw [exec_calcElem_of_unsupported value hopen (kindUnsupported_iff.2 hkind), respond, State.failFlag_flagBits s hopen]
  rfl

/-- Settles O37: of CALC_END's answers to an open session, the one of a failed session. -/
theorem endOfFailedSession : Obligations.EndOfFailedSession := by
  intro s hopen herr
  rw [exec_calcEnd_of_open hopen, State.endSession, State.endResponse, if_pos herr]
  rfl

/-- Settles O44: after decoding the premises of each clause make the check of its code fail. -/
theorem checksRunInOrder : Obligations.ChecksRunInOrder := by
  intro s t w rest r hfree hin hstep hr
  have haccept : acceptCommand w (s.takeInput rest) = .next t := (step_of_input hfree hin).symm.trans hstep
  refine ⟨fun hw => rspCode_of_reservedWord hw haccept hr, fun i hd => ?_⟩
  have hexec : exec i (s.takeInput rest) = .next t := (acceptCommand_command hd).symm.trans haccept
  have hcode {c : Code} {u : State} (hfails : CheckFails (s.takeInput rest) i c u) : rspCode r = codeBits c :=
    hfails.rspCode_eq hexec hr
  refine ⟨fun hillegal => hcode (.sequence hillegal), fun hlegal => ⟨?_, ?_, ?_, ?_, ?_⟩⟩
  · rintro width poly rfl hwidth
    exact hcode (.width (by simpa [sequenceLegal] using hlegal) hwidth)
  · rintro kind value rfl hkind
    exact hcode (.element hlegal (kindUnsupported_iff.2 hkind))
  · rintro index rfl hindex
    exact hcode (.index hindex)
  · rintro rfl herr
    exact hcode (.failedSession hlegal herr)
  · rintro rfl herr hskip
    exact hcode (.skipLeft hlegal herr (Nat.pos_of_ne_zero (BitVec.toNat_ne_iff_ne.2 hskip)))

/-! ### The state after an error -/

/-- A well-formed state with no session open is not failed (R35). -/
theorem State.WellFormed.sessionErr_eq_false (hs : s.WellFormed) (hopen : s.sessionOpen = false) :
    s.sessionErr = false := by
  obtain ⟨-, -, -, -, -, -, -, herr⟩ := hs
  simpa [hopen] using herr

/-- With the same engine and the same flags, states differ in CRC_ACC, SKIP_REM and the host's fields only. -/
theorem State.eq_of_sameEngine_of_flags (hsame : sameEngine s t) (hopen : t.sessionOpen = s.sessionOpen)
    (herr : t.sessionErr = s.sessionErr) :
    t = { s with
      skipRem := t.skipRem, crcAcc := t.crcAcc, hostInputs := t.hostInputs, responses := t.responses,
      rspWaiting := t.rspWaiting } := by
  obtain ⟨hmax, hwidth, hpoly, htable⟩ := hsame
  rw [← hmax, ← hwidth, ← hpoly, ← htable, ← hopen, ← herr]

/-- A session, failed or not, leaves the state before its CALC_BEGIN, up to CRC_ACC, SKIP_REM and the host's fields. -/
theorem session_leaves_state {skip : BitVec 32} {es : List (Kind × BitVec 32)} (hs : s.WellFormed)
    (hopen : s.sessionOpen = false) (h : issueAll (sessionCommands skip es) s = .next t) :
    t = { s with
      skipRem := t.skipRem, crcAcc := t.crcAcc, hostInputs := t.hostInputs, responses := t.responses,
      rspWaiting := t.rspWaiting } := by
  obtain ⟨t', _, hrun, -, hsame, hclosed, herr, -⟩ := sessionComputesReferenceFunction s skip es hs hopen
  cases hrun.symm.trans h
  exact State.eq_of_sameEngine_of_flags hsame (hclosed.trans hopen.symm)
    (herr.trans (hs.sessionErr_eq_false hopen).symm)

/-- Settles O45: the check that fails says what is left of the state, and a session ends with both flags 0 and the engine
it found. -/
theorem errorsLeaveStateUnchanged : Obligations.ErrorsLeaveStateUnchanged := by
  refine ⟨fun s t kind value r h hr hcode => ?_, fun s t r h hr hcode => ?_, fun s t i r h hr hcode helem hend => ?_,
    fun s t w hw h => ?_, fun s t skip es r hs hopen h _ _ => session_leaves_state hs hopen h⟩
  · obtain ⟨_, hfails, ht⟩ := checkFails_of_rspCode (c := .unsupportedInputElement) h hr (by decide) hcode
    cases hfails with
    | element hopen hkind => exact ht
  · have hne : rspCode r ≠ 0x00 := by rcases hcode with hc | hc <;> rw [hc] <;> decide
    obtain ⟨_, _, hfails, hcode', ht⟩ := checkFails_of_error h hr hne
    cases hfails with
    | sequence _ => rw [hcode'] at hcode; exact absurd hcode (by decide)
    | failedSession _ _ => exact ht
    | skipLeft _ _ _ => exact ht
  · obtain ⟨c, u, hfails, hcode', ht⟩ := checkFails_of_error h hr hcode
    cases hfails with
    | sequence _ => exact ht
    | width _ _ => exact ht
    | index _ => exact ht
    | element _ _ => exact absurd ⟨⟨_, _, rfl⟩, hcode'⟩ helem
    | failedSession _ _ => exact absurd ⟨rfl, .inl hcode'⟩ hend
    | skipLeft _ _ _ => exact absurd ⟨rfl, .inr hcode'⟩ hend
  · obtain ⟨why, hd⟩ := reservedWord_iff_illegal.1 hw
    cases (acceptCommand_illegal hd).symm.trans h
    rfl

/-! ### Errors that never reach the block -/

/-- Settles O52: each call issues a command exactly where its arguments are in range, and without one the block is not
touched. -/
theorem driverRefusesBadArguments : Obligations.DriverRefusesBadArguments := by
  refine ⟨fun input skip => ?_, fun input skip s h => by rw [calculate, h], fun poly width => ?_,
    fun poly width s h => by rw [construct, h]⟩
  · cases skip with
    | nonInteger => simp [calculateCommands]
    | int k =>
      have hrange : calculateCommands input (.int k) = none ↔ ¬ (0 ≤ k ∧ k < 2 ^ 32) := by simp [calculateCommands]
      simp only [hrange, reduceCtorEq, HostNumber.int.injEq, exists_eq_left', false_or]
      omega
  · cases width with
    | nonInteger => simp [newCommand]
    | int w =>
      have hrange : newCommand poly (.int w) = none ↔ ¬ (0 < w ∧ w < 2 ^ 16 ∧ 0 ≤ poly) := by simp [newCommand]
      simp only [hrange, reduceCtorEq, HostNumber.int.injEq, exists_eq_left', false_or]
      omega

end Sys2Proof.Machine
end

section
/-! PROOFS. The engine after reset, and the CONFIG that installs the same engine (spec/70_reset_and_hazards.md R210). -/

namespace Sys2Proof.Machine

variable {s : State}

/-- The table after reset is the generated one, at every W_MAX. -/
theorem tableGenerated_resetFor (wMax : Nat) : (State.resetFor wMax).TableGenerated :=
  (tableGenerated_resetBlock (State.resetFor wMax)).of_sameEngine ⟨rfl, rfl, rfl, rfl⟩

/-- The default polynomial fits in the default width, so CONFIG stores both operands as they are (R102). -/
theorem exec_config_default (hopen : s.sessionOpen = false) (hmax : 8 ≤ s.wMax) :
    exec (.config 8 0x9B) s = .next (respond 0x1 .ok 0 (s.setEngine 8 0x9B (genTable 0x9B 8))) := by
  have hvalid : widthValid s.wMax (8 : BitVec 16).toNat = true := widthValid_iff.2 ⟨by decide, hmax⟩
  have hpoly : maskPoly (8 : BitVec 16).toNat 0x9B = 0x9B := by decide
  have hwidth : storedWidth 8 = 8 := by decide
  rw [exec_config_ok 0x9B hopen hvalid, hpoly, hwidth]
  rfl

/-- Settles O13: the entries after reset are those of a generated table, and CONFIG of the default engine leaves both
session flags as a well-formed state with no session open has them. -/
theorem resetIsDefaultEngine : Obligations.ResetIsDefaultEngine := by
  refine ⟨fun wMax => ?_, fun s hs hopen hmax => ?_⟩
  · have hgen := tableGenerated_resetFor wMax
    have hentry (i : Nat) (hi : i < 256) :
        ∃ e, (State.resetFor wMax).table[i]? = some e ∧ e.toNat = genEntry 0x9B 8 i := by
      obtain ⟨e, hread, hvalue, -⟩ := hgen.entry hi
      exact ⟨e, hread, hvalue⟩
    exact ⟨rfl, rfl, hgen.table_length, hentry, rfl, rfl, rfl, rfl⟩
  · exact ⟨_, exec_config_default hopen hmax, ⟨rfl, rfl, rfl, rfl⟩, hopen, hs.sessionErr_eq_false hopen⟩

end Sys2Proof.Machine
end

section
/-! PROOFS. Decoding and encoding as inverses, and the mask and match table (spec/30_encoding.md R72, R74, R78, R79). -/

namespace Sys2Proof

open Sys2Proof.Machine

/-- Settles O1: the decoder reads every command's word back. -/
theorem decodeOfEncode : Obligations.DecodeOfEncode := decode_encode

/-- Settles O5: each word is the encoding of the command it stands for. -/
theorem sampleWordsDecode : Obligations.SampleWordsDecode :=
  ⟨decode_encode .nop, decode_encode (.config 8 0x9B), decode_encode (.calcBegin 3),
    decode_encode (.calcElem .int 0x31), decode_encode (.calcElem .char 0x61), decode_encode .calcEnd,
    decode_encode (.tableRead 1)⟩

/-- Settles O4: a word with OP 3 and no reserved bit set is the encoding of its own fields. -/
theorem kindCodes : Obligations.KindCodes := by
  refine ⟨rfl, rfl, rfl, rfl, fun k value => ?_, by decide⟩
  have hword : encode (.calcElem (kindOfBits k) value) = 0x3#4 ++ 0#26 ++ k ++ value := by
    rw [encode, toBits_kindOfBits]
  rw [← hword, decode_encode]

/-! ### A word put together from its fields -/

theorem slice_whole (w : CommandWord) : slice w 0 64 = w := BitVec.extractLsb'_eq_self

/-- A slice is the two fields that it is made of. -/
theorem slice_eq_append {w : CommandWord} (lo n : Nat) {m : Nat} {high : BitVec m} {low : BitVec n}
    (hhigh : slice w (lo + n) m = high) (hlow : slice w lo n = low) : slice w lo (m + n) = high ++ low := by
  rw [← hhigh, ← hlow]
  exact (BitVec.extractLsb'_append_extractLsb'_eq_extractLsb' rfl).symm

theorem fields_of_slice_eq_append {w : CommandWord} {lo m n : Nat} {high : BitVec m} {low : BitVec n}
    (h : slice w lo (m + n) = high ++ low) : slice w (lo + n) m = high ∧ slice w lo n = low := by
  rw [slice_eq_append lo n rfl rfl] at h
  constructor
  · simpa only [BitVec.extractLsb'_append_eq_left] using congrArg (BitVec.extractLsb' n m) h
  · simpa only [BitVec.extractLsb'_append_eq_right] using congrArg (BitVec.extractLsb' 0 n) h

/-- A word that decodes to a command is that command's word. -/
theorem encode_of_decode {w : CommandWord} {i : Instr} (h : decode w = .command i) : encode i = w := by
  rcases decode_cases w with ⟨hop, hd⟩ | ⟨hop, hd⟩ | ⟨hop, hd⟩ | ⟨hop, hd⟩ | ⟨hop, hd⟩ | ⟨hop, hd⟩ | ⟨_, hd⟩
  case inr.inr.inr.inr.inr.inr => simp [hd] at h
  all_goals
    obtain ⟨hclear, rfl⟩ := ifReservedClear_eq_command.1 (hd.symm.trans h)
    replace hclear := beq_iff_eq.1 hclear
    refine Eq.trans (Eq.symm ?_) (slice_whole w)
  · exact slice_eq_append 0 60 hop hclear
  · exact slice_eq_append 0 32 (slice_eq_append 32 16 (slice_eq_append 48 12 hop hclear) rfl) rfl
  · exact slice_eq_append 0 32 (slice_eq_append 32 28 hop hclear) rfl
  · exact slice_eq_append 0 32
      (slice_eq_append 32 2 (slice_eq_append 34 26 hop hclear) (toBits_kindOfBits _).symm) rfl
  · exact slice_eq_append 0 60 hop hclear
  · exact slice_eq_append 0 32 (slice_eq_append 32 28 hop hclear) rfl

/-! ### The mask and match table -/

theorem ifReservedClear_beq_zero {n : Nat} (reserved : BitVec n) (i : Instr) :
    ifReservedClear (reserved == 0#n) i = if reserved = 0#n then .command i else .illegal .reservedBits := by
  by_cases h : reserved = 0#n <;> simp [ifReservedClear, h]

/-- A row hits only words of its opcode, with the reserved bits below the opcode clear. -/
theorem OpcodeRow.fields_of_hits {n k : Nat} {r : OpcodeRow} (op : BitVec 4) (hnk : n + (4 + k) = 64)
    (hmask : r.mask = BitVec.allOnes 64 <<< n) (hmatch : r.matchBits = ((op ++ 0#k).setWidth 64) <<< n)
    {w : CommandWord} (h : r.hits w = true) : slice w (n + k) 4 = op ∧ slice w n k = 0 :=
  fields_of_slice_eq_append ((OpcodeRow.hits_iff hnk hmask hmatch w).1 h)

/-- A word that hits a row spells a command: no reserved bit of the opcode's format is set. -/
theorem exists_command_of_hits {r : OpcodeRow} (hr : r ∈ opcodeRows) {w : CommandWord} (h : r.hits w = true) :
    ∃ i, decode w = .command i := by
  suffices hw : ¬ reservedWord w by simpa [reservedWord_iff_no_command] using hw
  simp only [opcodeRows, List.mem_cons, List.not_mem_nil, or_false] at hr
  rcases hr with rfl | rfl | rfl | rfl | rfl | rfl
  · simp [reservedWord, OpcodeRow.fields_of_hits (n := 0) (k := 60) 0 rfl (by decide) (by decide) h]
  · simp [reservedWord, OpcodeRow.fields_of_hits (n := 48) (k := 12) 1 rfl (by decide) (by decide) h]
  · simp [reservedWord, OpcodeRow.fields_of_hits (n := 32) (k := 28) 2 rfl (by decide) (by decide) h]
  · simp [reservedWord, OpcodeRow.fields_of_hits (n := 34) (k := 26) 3 rfl (by decide) (by decide) h]
  · simp [reservedWord, OpcodeRow.fields_of_hits (n := 0) (k := 60) 4 rfl (by decide) (by decide) h]
  · simp [reservedWord, OpcodeRow.fields_of_hits (n := 32) (k := 28) 5 rfl (by decide) (by decide) h]

/-- A command's word hits the row of its mnemonic and no other. -/
theorem hits_encode_iff (i : Instr) {r : OpcodeRow} (hr : r ∈ opcodeRows) :
    r.hits (encode i) = true ↔ r.mnemonic = i.mnemonic := by
  have hrow : Laws.OpcodeRow.Statement i := by
    cases i with
    | nop => exact Laws.OpcodeRow.nop
    | config width poly => exact Laws.OpcodeRow.config width poly
    | calcBegin skip => exact Laws.OpcodeRow.calcBegin skip
    | calcElem kind value => exact Laws.OpcodeRow.calcElem kind value
    | calcEnd => exact Laws.OpcodeRow.calcEnd
    | tableRead index => exact Laws.OpcodeRow.tableRead index
  exact hrow.2 r hr

theorem hits_iff_decode (w : CommandWord) {r : OpcodeRow} (hr : r ∈ opcodeRows) :
    r.hits w = true ↔ ∃ i, decode w = .command i ∧ i.mnemonic = r.mnemonic := by
  constructor
  · intro h
    obtain ⟨i, hd⟩ := exists_command_of_hits hr h
    rw [← encode_of_decode hd, hits_encode_iff i hr] at h
    exact ⟨i, hd, h.symm⟩
  · rintro ⟨i, hd, hname⟩
    rw [← encode_of_decode hd, hits_encode_iff i hr]
    exact hname.symm

/-- Two rows that hit one word have its opcode, which no two rows share. -/
theorem eq_of_hits {r r' : OpcodeRow} (hr : r ∈ opcodeRows) (hr' : r' ∈ opcodeRows) {w : CommandWord}
    (h : r.hits w = true) (h' : r'.hits w = true) : r = r' := by
  have hop : opField r.matchBits = opField r'.matchBits := (opField_of_hits hr h).symm.trans (opField_of_hits hr' h')
  exact (by decide : ∀ r ∈ opcodeRows, ∀ r' ∈ opcodeRows, opField r.matchBits = opField r'.matchBits → r = r')
    r hr r' hr' hop

/-- Settles O2: the decoder's lines are `decode_cases`, of which the opcode leaves one. -/
theorem decodeIsTotalDisjointInvertible : Obligations.DecodeIsTotalDisjointInvertible := by
  intro w
  have hlines := decode_cases w
  refine ⟨?_, ?_, ?_, ?_, ?_, ?_, fun hop => ?_, fun r hr => hits_iff_decode w hr,
    fun r hr r' hr' => eq_of_hits hr hr', fun i => encode_of_decode⟩
  case refine_7 =>
    rcases hlines with ⟨h, _⟩ | ⟨h, _⟩ | ⟨h, _⟩ | ⟨h, _⟩ | ⟨h, _⟩ | ⟨h, _⟩ | ⟨_, hd⟩
    case inr.inr.inr.inr.inr.inr => exact hd
    all_goals exact absurd (h ▸ hop) (by decide)
  all_goals
    intro hop
    simpa [hop, ifReservedClear_beq_zero] using hlines

end Sys2Proof
end

section
/-! PROOFS. What every command and every step keep: well-formedness (spec/10_state.md R35), the engine (R22 to R24), the
parameter (spec/00_scope.md R6), the flags (R27, R28) and SKIP_REM (R29). -/

namespace Sys2Proof.Machine

variable {s t : State}

/-! ### Well-formedness, update by update -/

/-- The engine that a CONFIG of these operands installs (R100). -/
def State.configured (width : BitVec 16) (poly : BitVec 32) (s : State) : State :=
  s.setEngine (storedWidth width) (maskPoly width.toNat poly) (genTable (maskPoly width.toNat poly) width.toNat)

section WellFormed

variable (hs : s.WellFormed)

include hs

theorem State.WellFormed.respond (echo : BitVec 4) (c : Code) (data : BitVec 32) :
    (Machine.respond echo c data s).WellFormed := hs

theorem State.WellFormed.takeInput (rest : List HostInput) : (s.takeInput rest).WellFormed := hs

theorem State.WellFormed.takeResponse : s.takeResponse.WellFormed := hs

theorem State.WellFormed.holdResponse : s.holdResponse.WellFormed := hs

theorem State.WellFormed.alone : s.alone.WellFormed := hs

theorem State.WellFormed.withHost (inputs : List HostInput) (earlier : List ResponseWord) :
    (s.withHost inputs earlier).WellFormed := hs

theorem State.WellFormed.countSkipped : s.countSkipped.WellFormed := hs

theorem State.WellFormed.failFlag (hopen : s.sessionOpen = true) : s.failFlag.WellFormed := by
  obtain ⟨hmax, hpos, hle, hpoly, htable, hacc, hsession, -⟩ := hs
  exact ⟨hmax, hpos, hle, hpoly, htable, hacc, hsession, fun _ => hopen⟩

theorem State.WellFormed.closeFlags : s.closeFlags.WellFormed := by
  obtain ⟨hmax, hpos, hle, hpoly, htable, hacc, -, -⟩ := hs
  exact ⟨hmax, hpos, hle, hpoly, htable, hacc, by simp, by simp⟩

theorem State.WellFormed.beginSession (skip : BitVec 32) : (s.beginSession skip).WellFormed := by
  obtain ⟨hmax, hpos, hle, hpoly, htable, -, -, -⟩ := hs
  exact ⟨hmax, hpos, hle, hpoly, htable, tableLength_pos _, fun _ => tableLength_pos _, by simp⟩

/-- An entry of the table keeps CRC_ACC below both bounds, since the width is at most W_MAX. -/
theorem State.WellFormed.setAcc {e : Entry} (he : e.toNat < tableLength s.width) : (s.setAcc e).WellFormed := by
  obtain ⟨hmax, hpos, hle, hpoly, htable, -, -, herr⟩ := hs
  have hlength : tableLength s.width ≤ tableLength s.wMax := Nat.pow_le_pow_right (by decide) hle
  exact ⟨hmax, hpos, hle, hpoly, htable, he.trans_le hlength, fun _ => he, herr⟩

/-- CONFIG's engine; outside a session a running value left over need not fit the new width. -/
theorem State.WellFormed.configured {width : BitVec 16} (poly : BitVec 32) (hopen : s.sessionOpen = false)
    (hvalid : widthValid s.wMax width.toNat = true) :
    (s.configured width poly).WellFormed := by
  obtain ⟨hpos, hle⟩ := widthValid_iff.1 hvalid
  have h32 : width.toNat ≤ 32 := hle.trans hs.wMax_le
  obtain ⟨hmax, -, -, -, -, hacc, -, herr⟩ := hs
  have hpoly : (maskPoly width.toNat poly).toNat < tableLength width.toNat :=
    (toNat_maskPoly h32 poly).trans_lt (Nat.mod_lt _ (tableLength_pos _))
  rw [State.configured]
  rw [← toNat_storedWidth h32] at hpos hle hpoly ⊢
  exact ⟨hmax, hpos, hle, hpoly, rfl, hacc, by simp [hopen], herr⟩

end WellFormed

theorem resetFor_wellFormed {wMax : Nat} (h8 : 8 ≤ wMax) (h32 : wMax ≤ 32) : (State.resetFor wMax).WellFormed :=
  ⟨legalWMax_iff.2 ⟨Nat.le_trans (by decide) h8, h32⟩, by simp, h8, (by decide : 0x9B < 2 ^ 8), rfl,
    tableLength_pos _, fun _ => tableLength_pos _, id⟩

/-- Settles O14: the default engine fits in every W_MAX of 8 or more. -/
theorem resetIsWellFormed : Obligations.ResetIsWellFormed :=
  ⟨rfl, resetFor_wellFormed (by decide) (by decide), fun _ => resetFor_wellFormed⟩

/-! ### Well-formedness, command by command -/

theorem exec_keeps_wellFormed {i : Instr} (hs : s.WellFormed) (h : exec i s = .next t) : t.WellFormed := by
  cases i with
  | nop =>
    obtain rfl := execNop_cases h
    exact hs.respond ..
  | config width poly =>
    rcases execConfig_cases h with ⟨_, rfl⟩ | ⟨_, _, rfl⟩ | ⟨hopen, hvalid, rfl⟩
    · exact hs.respond ..
    · exact hs.respond ..
    · exact (hs.configured poly hopen hvalid).respond ..
  | calcBegin skip =>
    rcases execCalcBegin_cases h with ⟨_, rfl⟩ | ⟨_, rfl⟩
    · exact hs.respond ..
    · exact (hs.beginSession skip).respond ..
  | calcElem kind value =>
    rcases execCalcElem_cases h with
      ⟨_, rfl⟩ | ⟨hopen, _, rfl⟩ | ⟨_, _, _, rfl⟩ | ⟨_, _, _, _, rfl⟩ | ⟨_, _, _, _, e, hread, rfl⟩
    · exact hs.respond ..
    · exact (hs.failFlag hopen).respond ..
    · exact hs.respond ..
    · exact hs.countSkipped.respond ..
    · obtain ⟨h32, htable⟩ := hs.tableGenerated
      exact (hs.setAcc (lt_of_tableRead_genTable h32 (htable ▸ hread))).respond ..
  | calcEnd =>
    rcases execCalcEnd_cases h with ⟨_, rfl⟩ | ⟨_, _, rfl⟩ | ⟨_, _, _, rfl⟩ | ⟨_, _, _, rfl⟩
    · exact hs.respond ..
    all_goals exact hs.closeFlags.respond ..
  | tableRead index =>
    rcases execTableRead_cases h with ⟨_, rfl⟩ | ⟨_, _, _, rfl⟩ <;> exact hs.respond ..

theorem acceptCommand_keeps_wellFormed {w : CommandWord} (hs : s.WellFormed) (h : acceptCommand w s = .next t) :
    t.WellFormed := by
  rcases acceptCommand_cases h with ⟨i, _, hexec⟩ | ⟨_, _, rfl⟩
  · exact exec_keeps_wellFormed hs hexec
  · exact hs.respond ..

/-- Settles O16: each update keeps well-formedness under the check its command makes first. -/
theorem stepKeepsWellFormed : Obligations.StepKeepsWellFormed := by
  intro s t hs hreset hstep
  rcases step_cases hstep with
    ⟨_, rfl⟩ | ⟨rest, hnext, rfl⟩ | ⟨rest, _, rfl⟩ | ⟨w, rest, _, _, haccept⟩ | ⟨w, rest, u, _, _, haccept, rfl⟩
  · exact hs
  · have h8 : 8 ≤ s.wMax := hreset.resolve_right fun hnone => hnone rest hnext
    exact resetFor_wellFormed h8 hs.wMax_le
  · exact (hs.takeInput rest).takeResponse
  · exact acceptCommand_keeps_wellFormed (hs.takeInput rest) haccept
  · exact (acceptCommand_keeps_wellFormed (hs.takeInput rest) haccept).holdResponse

/-- Settles O17: an accepted word goes on, and so does every other input. -/
theorem wellFormedStepGoesOn : Obligations.WellFormedStepGoesOn := by
  intro s hs
  cases hn : s.nextInput with
  | none => exact ⟨s, step_of_none hn⟩
  | some p =>
    obtain ⟨input, rest⟩ := p
    rw [step_of_nextInput hn]
    cases input with
    | command w => exact acceptCommand_goes_on (hs.takeInput rest) w
    | commandOnly w =>
      obtain ⟨u, hu⟩ := acceptCommand_goes_on (hs.takeInput rest) w
      exact ⟨_, acceptHeld_eq_next.2 ⟨u, hu, rfl⟩⟩
    | takeResponse => exact ⟨_, rfl⟩
    | reset => exact ⟨_, rfl⟩

/-! ### The engine -/

/-- A command that is no CONFIG, or that does not answer OK, leaves the engine. -/
theorem exec_keeps_engine {i : Instr} {r : ResponseWord} (h : exec i s = .next t)
    (hr : t.responses = s.responses ++ [r]) (hno : (∀ width poly, i ≠ .config width poly) ∨ rspCode r ≠ 0x00) :
    sameEngine s t := by
  rcases exec_engine_cases h with hsame | ⟨width, poly, rfl, _, _, rfl⟩
  · exact hsame
  · rcases hno with hne | hcode
    · exact absurd rfl (hne width poly)
    · exact absurd (rspCode_of_respond rfl hr) hcode

/-- Settles O21: with the table as a list unchanged, so is every read of it. -/
theorem onlyConfigWritesEngine : Obligations.OnlyConfigWritesEngine := by
  intro s t i r h hr hno
  obtain ⟨-, hwidth, hpoly, htable⟩ := exec_keeps_engine h hr hno
  exact ⟨hwidth, hpoly, fun j => by rw [htable]⟩

theorem acceptCommand_engine_cases {w : CommandWord} (h : acceptCommand w s = .next t) :
    sameEngine s t ∨
      ∃ width poly, widthValid s.wMax width.toNat = true ∧ sameEngine (s.configured width poly) t := by
  rcases acceptCommand_cases h with ⟨i, _, hexec⟩ | ⟨_, _, rfl⟩
  · rcases exec_engine_cases hexec with hsame | ⟨width, poly, _, _, hvalid, rfl⟩
    · exact .inl hsame
    · exact .inr ⟨width, poly, hvalid, rfl, rfl, rfl, rfl⟩
  · exact .inl ⟨rfl, rfl, rfl, rfl⟩

/-- The engines a step can leave: the one it found, one that a CONFIG installs, or that of reset. -/
theorem step_engine_cases (h : step s = .next t) :
    sameEngine s t ∨
    (∃ width poly, widthValid s.wMax width.toNat = true ∧ sameEngine (s.configured width poly) t) ∨
    sameEngine (State.resetFor s.wMax) t := by
  rcases step_cases h with
    ⟨_, rfl⟩ | ⟨rest, _, rfl⟩ | ⟨rest, _, rfl⟩ | ⟨w, rest, _, _, haccept⟩ | ⟨w, rest, u, _, _, haccept, rfl⟩
  · exact .inl ⟨rfl, rfl, rfl, rfl⟩
  · exact .inr (.inr ⟨rfl, rfl, rfl, rfl⟩)
  · exact .inl ⟨rfl, rfl, rfl, rfl⟩
  · exact (acceptCommand_engine_cases haccept).imp_right .inl
  · exact (acceptCommand_engine_cases haccept).imp_right .inl

/-- Settles O20: none of these engines has another W_MAX. -/
theorem parameterNeverChanges : Obligations.ParameterNeverChanges := by
  intro s t h
  rcases step_engine_cases h with ⟨hmax, -⟩ | ⟨width, poly, _, hmax, -⟩ | ⟨hmax, -⟩ <;> exact hmax

theorem memoryWf_of_sameEngine (hsame : sameEngine s t) (hs : Memory.wf s.width s.table = true) :
    Memory.wf t.width t.table = true := by
  obtain ⟨-, hwidth, -, htable⟩ := hsame
  rwa [State.width, hwidth, htable]

/-- Settles O19: the engines of CONFIG and of reset have a generated table. -/
theorem stepKeepsTableForm : Obligations.StepKeepsTableForm := by
  intro s t hmax hs h
  rcases step_engine_cases h with hsame | ⟨width, poly, hvalid, hsame⟩ | hsame
  · exact memoryWf_of_sameEngine hsame hs
  · have h32 : width.toNat ≤ 32 := (widthValid_iff.1 hvalid).2.trans hmax
    refine memoryWf_of_sameEngine hsame ?_
    simpa only [State.configured, State.setEngine_width, State.setEngine_table, toNat_storedWidth h32] using
      genTable_wf (maskPoly width.toNat poly) h32
  · exact memoryWf_of_sameEngine hsame (genTable_wf Config.defaultPoly (w := 8) (by decide))

/-! ### The session's fields -/

/-- Settles O22: by command and case, each update's flags. -/
theorem sessionFlagsAfterCommand : Obligations.SessionFlagsAfterCommand := by
  intro s t i h
  cases i with
  | nop =>
    obtain rfl := execNop_cases h
    exact ⟨rfl, rfl⟩
  | config width poly =>
    rcases execConfig_cases h with ⟨_, rfl⟩ | ⟨_, _, rfl⟩ | ⟨_, _, rfl⟩ <;> exact ⟨rfl, rfl⟩
  | calcBegin skip =>
    rcases execCalcBegin_cases h with ⟨hopen, rfl⟩ | ⟨hopen, rfl⟩ <;> simp [hopen]
  | calcElem kind value =>
    rcases execCalcElem_cases h with
      ⟨hopen, rfl⟩ | ⟨hopen, hkind, rfl⟩ | ⟨_, hkind, _, rfl⟩ | ⟨_, hkind, _, _, rfl⟩ | ⟨_, hkind, _, _, _, _, rfl⟩
    · simp [hopen]
    · simp [hopen, hkind]
    all_goals simp [hkind]
  | calcEnd =>
    rcases execCalcEnd_cases h with ⟨hopen, rfl⟩ | ⟨hopen, _, rfl⟩ | ⟨hopen, _, _, rfl⟩ | ⟨hopen, _, _, rfl⟩ <;>
      simp [hopen]
  | tableRead index =>
    rcases execTableRead_cases h with ⟨_, rfl⟩ | ⟨_, _, _, rfl⟩ <;> exact ⟨rfl, rfl⟩

/-- Settles O23: only a supported element with SKIP_REM above 0 counts it down. -/
theorem skipRemNeverWraps : Obligations.SkipRemNeverWraps := by
  intro s t i h
  cases i with
  | nop =>
    obtain rfl := execNop_cases h
    exact .inl rfl
  | config width poly =>
    rcases execConfig_cases h with ⟨_, rfl⟩ | ⟨_, _, rfl⟩ | ⟨_, _, rfl⟩ <;> exact .inl rfl
  | calcBegin skip =>
    rcases execCalcBegin_cases h with ⟨_, rfl⟩ | ⟨_, rfl⟩
    · exact .inl rfl
    · exact .inr (.inl ⟨skip, rfl, rfl⟩)
  | calcElem kind value =>
    rcases execCalcElem_cases h with
      ⟨_, rfl⟩ | ⟨_, _, rfl⟩ | ⟨_, _, _, rfl⟩ | ⟨_, _, _, hskip, rfl⟩ | ⟨_, _, _, _, _, _, rfl⟩
    case inr.inr.inr.inl =>
      obtain ⟨k, hk⟩ := Nat.exists_eq_add_one.2 hskip
      have hcount : s.countSkipped.skipRem.toNat = k := toNat_countSkipped_skipRem hk
      exact .inr (.inr ⟨kind, value, rfl, by rw [hk, respond_skipRem, hcount]⟩)
    all_goals exact .inl rfl
  | calcEnd =>
    rcases execCalcEnd_cases h with ⟨_, rfl⟩ | ⟨_, _, rfl⟩ | ⟨_, _, _, rfl⟩ | ⟨_, _, _, rfl⟩ <;> exact .inl rfl
  | tableRead index =>
    rcases execTableRead_cases h with ⟨_, rfl⟩ | ⟨_, _, _, rfl⟩ <;> exact .inl rfl

/-! ### Session commands in one case each -/

/-- Settles O30: the two flags after the command are those of `State.beginSession`. -/
theorem beginOpensSession : Obligations.BeginOpensSession := by
  intro s skip hopen
  rw [exec_calcBegin_of_closed skip hopen, respond, State.beginSession_flagBits]
  rfl

/-- Settles O32: of CALC_ELEM's cases, the one of a failed session, which both flags report. -/
theorem failedSessionDoesNotFold : Obligations.FailedSessionDoesNotFold := by
  intro s kind value hopen hkind herr
  rw [exec_calcElem_of_failed value hopen (kindUnsupported_eq_false hkind) herr, respond,
    State.flagBits_of_failed s hopen herr]

/-- Settles O33: of CALC_ELEM's cases, the one that counts, before any read of the table. -/
theorem skippedElementCountsDown : Obligations.SkippedElementCountsDown := by
  intro s kind value hopen hkind herr hskip
  have hpos : 0 < s.skipRem.toNat := Nat.pos_of_ne_zero (BitVec.toNat_ne_iff_ne.2 hskip)
  obtain ⟨k, hk⟩ := Nat.exists_eq_add_one.2 hpos
  refine ⟨s.countSkipped.skipRem, by rw [toNat_countSkipped_skipRem hk, hk], ?_⟩
  rw [exec_calcElem_of_skip value hopen (kindUnsupported_eq_false hkind) herr hpos, respond,
    State.countSkipped_flagBits, State.flagBits_of_open s hopen herr]
  rfl

/-- Settles O36: of CALC_END's answers to an open session, the one with nothing left to skip. -/
theorem endReturnsRunningValue : Obligations.EndReturnsRunningValue := by
  intro s hopen herr hskip
  rw [exec_calcEnd_of_open hopen, State.endSession, State.endResponse, if_neg (by simp [herr]),
    if_neg (by simp [hskip])]
  rfl

/-- Settles O38: of CALC_END's answers to an open session, the one with elements left to skip. -/
theorem endWithSkipLeft : Obligations.EndWithSkipLeft := by
  intro s hopen herr hskip
  have hpos : 0 < s.skipRem.toNat := Nat.pos_of_ne_zero (BitVec.toNat_ne_iff_ne.2 hskip)
  rw [exec_calcEnd_of_open hopen, State.endSession, State.endResponse, if_neg (by simp [herr]), if_pos hpos]
  rfl

end Sys2Proof.Machine
end

section
/-! PROOFS. The block's inputs: words, resets and responses taken (spec/60_exceptions.md R203, R204,
spec/70_reset_and_hazards.md R210 to R213, R221), runs over a list of words (R226), and the table length
the host knows (spec/30_encoding.md R85). -/

namespace Sys2Proof.Machine

variable {s t : State} {rest : List HostInput}

/-! ### One input -/

/-- Settles O6: the word is accepted, and decoding gives its command. -/
theorem stepRunsDecodedCommand : Obligations.StepRunsDecodedCommand := by
  intro s w rest i hfree hin hd
  exact (step_of_input hfree hin).trans (acceptCommand_command hd)

theorem decode_of_decodeTableWord {nbits w : Nat} {i : Instr} (h : decodeTableWord nbits w = some i) :
    decode (tableWord nbits w) = .command i := by
  unfold decodeTableWord at h
  split at h
  · next hd => rw [hd, Option.some.inj h]
  · simp at h

/-- Settles O7: the word stands first, and no response waits. -/
theorem fetchWordRunsNext : Obligations.FetchWordRunsNext := by
  intro s nbits w i h
  exact stepRunsDecodedCommand (s.withFetchWord nbits w) _ _ i rfl rfl (decode_of_decodeTableWord h)

/-- Settles O8: there is no input to serve. -/
theorem idleStepKeepsState : Obligations.IdleStepKeepsState := fun _ h => step_of_none (nextInput_of_empty h)

/-- An input that is a command word, its response taken with it or not. -/
theorem servedWhileWaiting_of_word {input : HostInput} (h : ∃ w, input = .command w ∨ input = .commandOnly w) :
    servedWhileWaiting input = false := by
  obtain ⟨w, rfl | rfl⟩ := h <;> rfl

/-- While a response waits, an input that is no command is served from behind the commands offered before it. -/
theorem nextInput_behind_words {r : ResponseWord} {input : HostInput} {offered : List HostInput}
    (hwaiting : s.rspWaiting = some r) (hoffered : ∀ j ∈ offered, ∃ w, j = .command w ∨ j = .commandOnly w)
    (hin : s.hostInputs = offered ++ input :: rest) (hserved : servedWhileWaiting input = true) :
    s.nextInput = some (input, offered ++ rest) := by
  rw [nextInput_of_waiting hwaiting, hin]
  exact firstServed_append (fun j hj => servedWhileWaiting_of_word (hoffered j hj)) hserved

/-- Settles O15: a reset is served next whether a response waits or not. -/
theorem resetInputRestoresDefaultEngine : Obligations.ResetInputRestoresDefaultEngine := by
  refine ⟨fun s rest hin => ?_, fun s offered rest hwaiting hoffered hin => ?_⟩
  · have hnext : s.nextInput = some (.reset, rest) := by
      cases hwaiting : s.rspWaiting with
      | none => exact nextInput_of_free hwaiting hin
      | some r => exact nextInput_behind_words (offered := []) hwaiting (by simp) hin rfl
    exact step_of_nextInput hnext
  · obtain ⟨r, hr⟩ := Option.ne_none_iff_exists'.1 hwaiting
    exact step_of_nextInput (nextInput_behind_words hr hoffered hin rfl)

/-! ### A response left waiting -/

theorem run_of_step_self (h : step s = .next s) (n : Nat) : Sys2Proof.core.run n s = .next s := by
  induction n with
  | zero => rfl
  | succ n ih => rw [run_succ h, ih]

/-- Holding the one response just given. -/
theorem holdResponse_of_responses {earlier : List ResponseWord} {r : ResponseWord} (h : t.responses = earlier ++ [r]) :
    t.holdResponse = { t with responses := earlier, rspWaiting := some r } := by
  simp [State.holdResponse, h]

/-- Settles O58: the response of a word left waiting is the last one given; while it waits only a taking is served. -/
theorem untakenResponseStopsBlock : Obligations.UntakenResponseStopsBlock := by
  refine ⟨fun s w rest hs hfree hin => ?_, fun s r hwaiting hwords => run_of_step_self (step_of_none ?_),
    fun s r offered rest hwaiting hoffered hin => ?_, fun s rest hfree hin => ?_⟩
  · obtain ⟨t, ht⟩ := acceptCommand_goes_on (hs.takeInput rest) w
    obtain ⟨-, -, c, data, hresponses, -⟩ := acceptCommand_responds ht
    refine ⟨t, _, ht, hresponses, (step_of_input hfree hin).trans (acceptHeld_eq_next.2 ⟨t, ht, ?_⟩)⟩
    exact (holdResponse_of_responses hresponses).symm
  · rw [nextInput_of_waiting hwaiting, firstServed_eq_none]
    exact fun j hj => servedWhileWaiting_of_word (hwords j hj)
  · rw [step_of_nextInput (nextInput_behind_words hwaiting hoffered hin rfl)]
    simp [serveInput, State.takeResponse, State.takeInput, hwaiting]
  · rw [step_of_input hfree hin]
    simp [serveInput, State.takeResponse, State.takeInput, hfree]

/-! ### Runs over words -/

theorem width_of_sameEngine (h : sameEngine s t) : t.width = s.width := by
  obtain ⟨-, hwidth, -⟩ := h
  rw [State.width, hwidth, State.width]

/-- The length the host knew stays right over one more word: the engine changes where a CONFIG answers OK, and nowhere
else. -/
theorem knownLengthAfter_of_accept {w : CommandWord} {r : ResponseWord} (hmax : s.wMax ≤ 32)
    (h : acceptCommand w s = .next t) (hr : t.responses = s.responses ++ [r]) :
    knownLengthAfter (2 ^ s.width) w r = 2 ^ t.width := by
  rcases acceptCommand_cases h with ⟨i, hd, hexec⟩ | ⟨why, hd, rfl⟩
  · cases i with
    | config width poly =>
      by_cases hok : rspCode r = codeBits .ok
      · obtain ⟨hvalid, -, -, hwidth⟩ := exec_config_engine_of_ok hexec hr hok
        have h32 : width.toNat ≤ 32 := (widthValid_iff.1 hvalid).2.trans hmax
        simp only [knownLengthAfter, hd, hok, if_true, tableLength_eq, State.width, hwidth, toNat_storedWidth h32]
      · simp only [knownLengthAfter, hd, hok, if_false, width_of_sameEngine (exec_keeps_engine hexec hr (.inr hok))]
    | _ => simp only [knownLengthAfter, hd, width_of_sameEngine (exec_keeps_engine hexec hr (.inl (by simp)))]
  · simp only [knownLengthAfter, hd, respond_width]

/-- A run over words from a well-formed state takes them all, answers each in its order, and keeps the host's
knowledge of the table length right. -/
theorem run_words (ws : List CommandWord) (hs : s.WellFormed) (hfree : s.rspWaiting = none)
    (hin : s.hostInputs = ws.map .command) :
    ∃ t rs, Sys2Proof.core.run ws.length s = .next t ∧ t.WellFormed ∧ t.hostInputs = [] ∧
      t.responses = s.responses ++ rs ∧ rs.map rspEcho = ws.map opField ∧
      knownLength (2 ^ s.width) (ws.zip rs) = 2 ^ t.width := by
  induction ws generalizing s with
  | nil => exact ⟨s, [], rfl, hs, hin, (List.append_nil _).symm, rfl, rfl⟩
  | cons w ws ih =>
    obtain ⟨u, hu⟩ := acceptCommand_goes_on (hs.takeInput (ws.map .command)) w
    have hstep : step s = .next u := (step_of_input hfree hin).trans hu
    have hwf : u.WellFormed := acceptCommand_keeps_wellFormed (hs.takeInput _) hu
    obtain ⟨hinputs, hwaiting, c, data, hresponse, -⟩ := acceptCommand_responds hu
    have hlength := knownLengthAfter_of_accept (s := s.takeInput (ws.map .command)) hs.wMax_le hu hresponse
    obtain ⟨t, rs, hrun, ht, hleft, hresponses, hecho, hknown⟩ := ih hwf (hwaiting.trans hfree) hinputs
    refine ⟨t, responseWord c (opField w) u.flagBits data :: rs, (run_succ hstep).trans hrun, ht, hleft, ?_, ?_, ?_⟩
    · rw [hresponses, hresponse, State.takeInput_responses, List.append_assoc, List.singleton_append]
    · rw [List.map_cons, List.map_cons, hecho, rspEcho_responseWord]
    · rw [← hknown, ← hlength]
      rfl

/-- Settles O12: `run_words`, without the table length. -/
theorem runAnswersEveryWordInOrder : Obligations.RunAnswersEveryWordInOrder := by
  intro s ws hs hfree hin
  obtain ⟨t, rs, hrun, ht, hleft, hresponses, hecho, -⟩ := run_words ws hs hfree hin
  exact ⟨t, rs, hrun, hleft, hresponses, hecho, ht⟩

/-- Settles O57: `run_words`, where equal lists of OPECHO fields are equally long. -/
theorem hostKnowsTableLength : Obligations.HostKnowsTableLength := by
  refine ⟨fun wMax => rfl, fun s ws hs hfree hin => ?_⟩
  obtain ⟨t, rs, hrun, -, -, hresponses, hecho, hknown⟩ := run_words ws hs hfree hin
  have hlength : rs.length = ws.length := by simpa using congrArg List.length hecho
  exact ⟨t, rs, hrun, hresponses, hlength, hknown⟩

end Sys2Proof.Machine
end

section
/-! PROOFS. The table as it is written and read (spec/40_table_generator.md R100, spec/42_diagnostic.md R162, R163), and
the driver's calls (spec/40_table_generator.md R107, spec/41_checksum.md R120, R146). -/

namespace Sys2Proof.Machine

variable {s t : State}

/-! ### CONFIG's loop of writes -/

/-- Writing just behind a list replaces the first entry after it. -/
theorem tableWrite_append_drop {written store : Memory} {v : Entry} (h : written.length < store.length) :
    tableWrite (written ++ store.drop written.length) written.length v =
      written ++ [v] ++ store.drop (written.length + 1) := by
  rw [tableWrite, List.set_append_right _ _ le_rfl, Nat.sub_self, List.drop_eq_getElem_cons h, List.set_cons_zero,
    List.append_assoc, List.singleton_append]

/-- After `n` writes, from index 0 on, the store is what was written and the rest as it was. -/
theorem foldl_tableWrite_range (f : Nat → Entry) {n : Nat} {store : Memory} (h : n ≤ store.length) :
    (List.range n).foldl (fun t i => tableWrite t i (f i)) store = (List.range n).map f ++ store.drop n := by
  induction n with
  | zero => rfl
  | succ n ih =>
    have hwrite := tableWrite_append_drop (written := (List.range n).map f) (store := store) (v := f n)
      (by simpa using h)
    simp only [List.length_map, List.length_range] at hwrite
    rw [List.range_succ, List.foldl_append, ih (by omega), List.foldl_cons, List.foldl_nil, hwrite, List.map_append,
      List.map_singleton]

theorem generateByWrites_eq (p : Entry) {w : Nat} {store : Memory} (h : tableLength w ≤ store.length) :
    generateByWrites p w store = genTable p w ++ store.drop (tableLength w) := by
  rw [generateByWrites, foldl_tableWrite_range _ h, genTable, List.range_eq_range']

/-- Settles O29: the store after the loop is Gen followed by what stood above it. -/
theorem writeLoopGeneratesTable : Obligations.WriteLoopGeneratesTable := by
  intro p w store h
  rw [generateByWrites_eq p h]
  exact ⟨List.take_left' (genTable_length p w), List.drop_left' (genTable_length p w)⟩

/-! ### Reading the table -/

theorem exec_tableRead_of_lt {index : BitVec 32} {e : Entry} (hi : index.toNat < tableLength s.width)
    (hread : tableRead s.table index.toNat = some e) :
    exec (.tableRead index) s = .next (respond 0x5 .ok e s) := by
  simp [exec, execTableRead, Instr.opcode, indexInRange, hi, hread]

/-- Settles O41: the entry is the generated table's, whose entries 0 and 1 are those of R105. -/
theorem tableReadReturnsEntry : Obligations.TableReadReturnsEntry := by
  intro s index hs hi
  obtain ⟨e, hread, hvalue, -⟩ := hs.tableGenerated.entry hi
  obtain ⟨-, hpos, -, hpoly, -⟩ := hs
  refine ⟨e, hread, hvalue, ?_, ?_, exec_tableRead_of_lt hi hread⟩
  · rintro rfl
    exact BitVec.eq_of_toNat_eq (hvalue.trans (genEntry_index_zero ..))
  · rintro rfl
    exact BitVec.eq_of_toNat_eq (hvalue.trans (genEntry_index_one hpos hpoly))

/-- Reads of a whole table answer what the table holds at their indexes, and leave the engine. -/
theorem execAll_tableReads {indexes : List (BitVec 32)} {ds : List Entry}
    (hlength : s.table.length = tableLength s.width)
    (hread : indexes.map (fun i => tableRead s.table i.toNat) = ds.map some) :
    ∃ t rs, execAll (indexes.map .tableRead) s = .next t ∧ sameEngine s t ∧ t.responses = s.responses ++ rs ∧
      rs.map rspData = ds := by
  induction indexes generalizing s ds with
  | nil =>
    obtain rfl : ds = [] := by simpa using hread.symm
    exact ⟨s, [], rfl, ⟨rfl, rfl, rfl, rfl⟩, (List.append_nil _).symm, rfl⟩
  | cons i indexes ih =>
    cases ds with
    | nil => simp at hread
    | cons d ds =>
      obtain ⟨hd, hds⟩ := List.cons.inj hread
      have hi : i.toNat < tableLength s.width := hlength ▸ (List.getElem?_eq_some_iff.1 hd).1
      obtain ⟨t, rs, hrun, hsame, hresponses, hdata⟩ := ih (s := respond 0x5 .ok d s) hlength hds
      refine ⟨t, responseWord .ok 0x5 s.flagBits d :: rs, (execAll_cons (exec_tableRead_of_lt hi hd)).trans hrun, hsame,
        ?_, ?_⟩
      · rw [hresponses, respond_responses, List.append_assoc, List.singleton_append]
      · rw [List.map_cons, hdata, rspData_responseWord]

/-- The indexes of a dump read a table of that length from its first entry to its last. -/
theorem map_tableRead_range {tbl : Memory} (h : tbl.length ≤ 2 ^ 32) :
    ((List.range' 0 tbl.length).map (BitVec.ofNat 32)).map (fun i => tableRead tbl i.toNat) = tbl.map some := by
  refine List.ext_getElem (by simp) fun i hi _ => ?_
  have hlt : i < tbl.length := by simpa using hi
  have hmod : i % 4294967296 = i := Nat.mod_eq_of_lt (by omega)
  simp [tableRead, hmod, hlt]

/-- Settles O56: the dump's commands read each entry of the table in turn. -/
theorem dumpRendersTheTable : Obligations.DumpRendersTheTable := by
  intro s hs
  have hlength : s.table.length = 2 ^ s.width := hs.tableGenerated.table_length
  have h32 : s.table.length ≤ 2 ^ 32 := hlength ▸ Nat.pow_le_pow_right (by decide) hs.tableGenerated.1
  have hcommands : dumpCommands (2 ^ s.width) =
      ((List.range' 0 s.table.length).map (BitVec.ofNat 32)).map .tableRead := by
    rw [dumpCommands, List.map_map, hlength]
    rfl
  obtain ⟨u, rs, hrun, hsame, hresponses, hdata⟩ :=
    execAll_tableReads (s := s.alone) (ds := s.table) hlength (map_tableRead_range h32)
  have hissue : issueAll (dumpCommands (2 ^ s.width)) s = .next (u.withHost [] s.takeResponse.responses) := by
    rw [issueAll_eq, hcommands]
    exact congrArg (Result.mapNext _) hrun
  have hnew : u.responses = rs := hresponses
  refine ⟨u.withHost [] s.takeResponse.responses, ?_, hsame⟩
  simp only [dumpTable, hissue, State.withHost_responses, List.drop_left, hnew, hdata]

/-! ### The driver's `new` -/

theorem issueAll_singleton {i : Instr} (h : exec i s.alone = .next t) :
    issueAll [i] s = .next (t.withHost [] s.takeResponse.responses) := by
  rw [issueAll_eq, execAll_cons h, execAll_nil, Result.mapNext_next]

theorem resultOfConfig_ok (echo : BitVec 4) (flags : BitVec 2) (data : BitVec 32) :
    resultOfConfig (responseWord .ok echo flags data) = some .engine := by
  simp [resultOfConfig]

theorem resultOfConfig_configurationError (echo : BitVec 4) (flags : BitVec 2) (data : BitVec 32) :
    resultOfConfig (responseWord .configurationError echo flags data) = some .configurationError := by
  simp [resultOfConfig, codeBits]

/-- With arguments in range `new` issues its CONFIG and returns what the response means. -/
theorem construct_eq {poly width : Nat} {c : Code} {data : BitVec 32} {u : State} {result : NewResult}
    (hpos : 1 ≤ width) (hlt : width < 2 ^ 16)
    (h : exec (.config (BitVec.ofNat 16 width) (BitVec.ofNat 32 poly)) s.alone = .next (respond 0x1 c data u))
    (hresult : resultOfConfig (responseWord c 0x1 u.flagBits data) = some result) :
    construct poly (.int width) s =
      .next (some result, (respond 0x1 c data u).withHost [] s.takeResponse.responses) := by
  have hcommand : newCommand poly (.int width) = some (.config (BitVec.ofNat 16 width) (BitVec.ofNat 32 poly)) := by
    rw [newCommand, if_pos (by omega), BitVec.ofInt_natCast, BitVec.ofInt_natCast]
  simp only [construct, hcommand, issueAll_singleton h, State.withHost_responses, respond_responses,
    ← List.append_assoc, List.getLast?_concat, Option.bind_some, hresult]

/-- Settles O53: the width check of CONFIG decides, and the operands lose nothing that the engine keeps. -/
theorem driverConstructsEngine : Obligations.DriverConstructsEngine := by
  refine ⟨fun poly width s => ⟨rfl, rfl, rfl, rfl⟩, fun s poly width hs hopen hpoly hpos hlt => ?_⟩
  lift poly to Nat using hpoly
  lift width to Nat using by omega
  norm_cast at hpos hlt ⊢
  have hwidth : (BitVec.ofNat 16 width).toNat = width := by
    rw [BitVec.toNat_ofNat]
    exact Nat.mod_eq_of_lt hlt
  refine ⟨fun hle => ?_, fun hgt => ?_⟩
  · have hvalid : widthValid s.alone.wMax (BitVec.ofNat 16 width).toNat = true :=
      widthValid_iff.2 (hwidth.symm ▸ ⟨hpos, hle⟩)
    have h32 : width ≤ 32 := hle.trans hs.wMax_le
    have hexec := exec_config_ok (s := s.alone) (BitVec.ofNat 32 poly) hopen hvalid
    have hpoly : (maskPoly (BitVec.ofNat 16 width).toNat (BitVec.ofNat 32 poly)).toNat = poly % 2 ^ width := by
      rw [hwidth, toNat_maskPoly h32, BitVec.toNat_ofNat, tableLength_eq, Nat.mod_mod_of_dvd _ (pow_dvd_pow 2 h32)]
    exact ⟨_, construct_eq hpos hlt hexec (resultOfConfig_ok ..),
      (exec_keeps_wellFormed hs.alone hexec).withHost .., hopen,
      (toNat_storedWidth (hwidth.symm ▸ h32)).trans hwidth, hpoly⟩
  · have hfails : CheckFails s.alone (.config (BitVec.ofNat 16 width) (BitVec.ofNat 32 poly))
        .configurationError s.alone := .width hopen (.inr (hwidth.symm ▸ hgt))
    exact ⟨_, construct_eq hpos hlt hfails.exec_eq (resultOfConfig_configurationError ..), rfl, rfl, rfl, rfl⟩

/-! ### The driver's `calculate` -/

/-- Leaving out the bytes of the skipped part. -/
theorem checksumFrom_drop (tbl : Memory) (w : Nat) (bs : List (BitVec 8)) (k : Nat) (r : Entry) :
    checksumFrom tbl w bs k r = checksumFrom tbl w (bs.drop k) 0 r := by
  induction bs generalizing k with
  | nil => rw [List.drop_nil, checksumFrom_of_length_le (Nat.zero_le k), checksumFrom_of_length_le (Nat.zero_le 0)]
  | cons b bs ih =>
    cases k with
    | zero => rfl
    | succ k => rw [checksumFrom_cons_succ, List.drop_succ_cons, ih]

/-- Settles O48: the reference function passes over the bytes of the skipped part one by one. -/
theorem skipIsExclusion : Obligations.SkipIsExclusion := by
  intro tbl w bs k _
  rw [checksumOf_eq_checksumFrom, checksumOf_eq_checksumFrom, checksumFrom_drop]

/-- The byte of an element that can be normalised (R122, R123). -/
def sourceByte : HostElem → Option (BitVec 8)
  | .int x => some (BitVec.ofInt 8 x)
  | .text [c] => some (BitVec.ofNat 8 c.toNat)
  | .text _ => none
  | .other => none

/-- The operands an element is sent with (R120). -/
def elementOperands : HostElem → Kind × BitVec 32
  | .int x => (.int, BitVec.ofInt 32 x)
  | .text [c] => (.char, BitVec.ofNat 32 c.toNat)
  | .text _ => (.unsup2, 0)
  | .other => (.unsup2, 0)

theorem elementCommand_eq (e : HostElem) :
    elementCommand e = .calcElem (elementOperands e).1 (elementOperands e).2 := by
  rcases e with x | (_ | ⟨c, _ | ⟨d, cs⟩⟩) | _ <;> rfl

/-- The low byte of x mod 2^32 is x mod 2^8. -/
theorem elementByte_ofInt (x : Int) : elementByte (BitVec.ofInt 32 x) = BitVec.ofInt 8 x := by
  apply BitVec.eq_of_toNat_eq
  simp only [elementByte, BitVec.toNat_setWidth, BitVec.toNat_ofInt]
  omega

theorem elementByte_ofNat (x : Nat) : elementByte (BitVec.ofNat 32 x) = BitVec.ofNat 8 x :=
  BitVec.setWidth_ofNat_of_le (by decide) x

/-- An element that has a byte is sent as a supported one, with that byte. -/
theorem elementOperands_of_sourceByte {e : HostElem} {b : BitVec 8} (h : sourceByte e = some b) :
    kindUnsupported (elementOperands e).1 = false ∧ elementByte (elementOperands e).2 = b := by
  unfold sourceByte at h
  split at h
  · next x => exact ⟨rfl, (elementByte_ofInt x).trans (Option.some.inj h)⟩
  · next c => exact ⟨rfl, (elementByte_ofNat c.toNat).trans (Option.some.inj h)⟩
  · simp at h
  · simp at h

theorem elementBytes_of_sourceBytes {es : List HostElem} {bytes : List (BitVec 8)}
    (h : es.map sourceByte = bytes.map some) :
    elementBytes (es.map elementOperands) = bytes ∧ ∀ e ∈ es.map elementOperands, kindUnsupported e.1 = false := by
  induction es generalizing bytes with
  | nil =>
    obtain rfl : bytes = [] := by simpa using h.symm
    exact ⟨rfl, by simp⟩
  | cons e es ih =>
    cases bytes with
    | nil => simp at h
    | cons b bytes =>
      obtain ⟨hb, hbytes⟩ := List.cons.inj h
      obtain ⟨hkind, hbyte⟩ := elementOperands_of_sourceByte hb
      obtain ⟨hrest, hkinds⟩ := ih hbytes
      exact ⟨by rw [List.map_cons, elementBytes_cons, hbyte, hrest], by simpa [hkind] using hkinds⟩

/-- With a skip count in range the driver issues one session. -/
theorem calculateCommands_eq (input : HostValue) {k : Nat} (hk : k < 2 ^ 32) :
    calculateCommands input (.int k) =
      some (sessionCommands (BitVec.ofNat 32 k) ((shape input).map elementOperands)) := by
  have hcommands : elementCommand = fun e => .calcElem (elementOperands e).1 (elementOperands e).2 :=
    funext elementCommand_eq
  rw [calculateCommands, if_pos (by omega), BitVec.ofInt_natCast, sessionCommands, List.map_map, hcommands]
  rfl

/-- What the driver returns is what the last response means. -/
theorem calculate_of_commands {input : HostValue} {skip : HostNumber} {is : List Instr} {r : ResponseWord}
    (hcommands : calculateCommands input skip = some is) (hrun : issueAll is s = .next t)
    (hlast : t.responses.getLast? = some r) : calculate input skip s = .next (resultOfEnd r, t) := by
  simp only [calculate, hcommands, hrun, hlast, Option.bind_some]

/-- Settles O50: the elements' bytes are those of the session the driver issues, and R144 gives its last response. -/
theorem driverReturnsChecksum : Obligations.DriverReturnsChecksum := by
  refine ⟨fun _ _ => rfl, fun _ _ _ => rfl, fun s input k bytes hs hopen hbytes hle hk => ?_⟩
  obtain ⟨hsent, hkinds⟩ := elementBytes_of_sourceBytes (es := shape input) hbytes
  have hskip : (BitVec.ofNat 32 k).toNat = k := by
    rw [BitVec.toNat_ofNat]
    exact Nat.mod_eq_of_lt hk
  obtain ⟨t, r, hrun, hlast, hsame, -, -, -, -, -, hok⟩ :=
    sessionComputesReferenceFunction s (BitVec.ofNat 32 k) ((shape input).map elementOperands) hs hopen
  have hlength : ((shape input).map elementOperands).length = bytes.length := by rw [← hsent, elementBytes_length]
  obtain ⟨v, hvalue, rfl⟩ := hok hkinds (by rw [hskip, hlength]; exact hle)
  simp only [← elementByte_eq_ofNat, hskip] at hvalue
  refine ⟨t, v, ?_, by rw [← hsent]; exact hvalue, hsame⟩
  rw [calculate_of_commands (calculateCommands_eq input hk) hrun hlast, resultOfEnd_ok]

end Sys2Proof.Machine
end

section
/-! PROOFS. The text of a dump (spec/42_diagnostic.md R163): its rows of sixteen values, its newlines and its spaces. -/

namespace Sys2Proof.Machine

/-! ### Neither spaces nor newlines inside a value -/

/-- A value is written in digits after `0x` (R164). -/
theorem not_blank_of_mem_hexText {d : BitVec 32} {c : Char} (h : c ∈ hexText d) : c ≠ ' ' ∧ c ≠ '\n' := by
  obtain ⟨digits, htext, -, hdigits, -⟩ := hexTextIsMinimal d
  rw [htext, List.mem_cons, List.mem_cons] at h
  rcases h with rfl | rfl | h
  · decide
  · decide
  · constructor <;> rintro rfl <;> exact absurd (hdigits _ h) (by decide)

/-! ### No space before a newline -/

/-- A space followed by a newline stands behind all text without spaces. -/
theorem infix_of_infix_append {cs l : Text} (hcs : ' ' ∉ cs) (h : [' ', '\n'] <:+: cs ++ l) : [' ', '\n'] <:+: l := by
  induction cs with
  | nil => exact h
  | cons c cs ih =>
    rw [List.mem_cons, not_or] at hcs
    rcases List.infix_cons_iff.1 h with hprefix | hinfix
    · exact absurd (List.cons_prefix_cons.1 hprefix).1 hcs.1
    · exact ih hcs.2 hinfix

/-- Behind a separator stands nothing, or the `0` that a value begins with. -/
theorem not_newline_prefix_dumpFrom (tl i : Nat) (ds : List (BitVec 32)) : ¬ ['\n'] <+: dumpFrom tl i ds := by
  intro h
  cases ds with
  | nil => simp [dumpFrom] at h
  | cons d ds => exact absurd (List.cons_prefix_cons.1 h).1 (by decide)

theorem dumpFrom_no_space_newline (tl i : Nat) (ds : List (BitVec 32)) : ¬ [' ', '\n'] <:+: dumpFrom tl i ds := by
  intro h
  induction ds generalizing i with
  | nil => simp [dumpFrom] at h
  | cons d ds ih =>
    have hspace : ' ' ∉ hexText d := fun hmem => (not_blank_of_mem_hexText hmem).1 rfl
    rcases List.infix_cons_iff.1 (infix_of_infix_append hspace h) with hprefix | hinfix
    · exact not_newline_prefix_dumpFrom tl (i + 1) ds (List.cons_prefix_cons.1 hprefix).2
    · exact ih (i + 1) hinfix

/-! ### Rows -/

/-- A row: the values with one space between each two, and a newline. -/
def dumpRow (ds : List (BitVec 32)) : Text := [' '].intercalate (ds.map hexText) ++ ['\n']

theorem dumpRow_singleton (d : BitVec 32) : dumpRow [d] = hexText d ++ ['\n'] := by
  rw [dumpRow, List.map_singleton, List.intercalate_singleton]

theorem dumpRow_cons_cons (d e : BitVec 32) (ds : List (BitVec 32)) :
    dumpRow (d :: e :: ds) = hexText d ++ ' ' :: dumpRow (e :: ds) := by
  simp [dumpRow, List.intercalate_cons_cons]

theorem count_newline_hexText (d : BitVec 32) : (hexText d).count '\n' = 0 :=
  List.count_eq_zero.2 fun hmem => (not_blank_of_mem_hexText hmem).2 rfl

/-- The newline at its end is a row's only one. -/
theorem count_newline_dumpRow (d : BitVec 32) (ds : List (BitVec 32)) : (dumpRow (d :: ds)).count '\n' = 1 := by
  induction ds generalizing d with
  | nil => simp [dumpRow_singleton, count_newline_hexText]
  | cons e ds ih => simp [dumpRow_cons_cons, count_newline_hexText, ih e]

/-- Values up to the first position that is followed by a newline are a row. -/
theorem dumpFrom_row {tl i : Nat} (d : BitVec 32) (row rest : List (BitVec 32))
    (hspace : ∀ j, i ≤ j → j < i + row.length → dumpSeparator tl j = ' ')
    (hnewline : dumpSeparator tl (i + row.length) = '\n') :
    dumpFrom tl i (d :: row ++ rest) = dumpRow (d :: row) ++ dumpFrom tl (i + row.length + 1) rest := by
  induction row generalizing d i with
  | nil =>
    rw [dumpRow_singleton]
    simp only [List.length_nil, Nat.add_zero] at hnewline ⊢
    simp [dumpFrom, hnewline]
  | cons e row ih =>
    rw [List.length_cons] at hspace hnewline
    have hi : dumpSeparator tl i = ' ' := hspace i le_rfl (by omega)
    have hrest := ih (i := i + 1) e (fun j hj hj' => hspace j (by omega) (by omega))
      (by rwa [Nat.add_right_comm, Nat.add_assoc])
    have hend : i + 1 + row.length + 1 = i + (row.length + 1) + 1 := by omega
    rw [dumpRow_cons_cons, List.cons_append, dumpFrom, hi, hrest, List.length_cons, hend, List.append_assoc,
      List.cons_append]

theorem dumpSeparator_eq_newline {tl i : Nat} (h : (i + 1) % 16 = 0 ∨ i + 1 = tl) : dumpSeparator tl i = '\n' :=
  if_pos h

theorem dumpSeparator_eq_space {tl i : Nat} (h : (i + 1) % 16 ≠ 0) (h' : i + 1 ≠ tl) : dumpSeparator tl i = ' ' :=
  if_neg (not_or.2 ⟨h, h'⟩)

/-- The dump from the start of a row on is that row, of the sixteen values or of those left, and the dump from the next
one on. -/
theorem dumpFrom_first_row {tl i : Nat} (d : BitVec 32) (ds : List (BitVec 32)) (hi : i % 16 = 0)
    (htl : i + (ds.length + 1) = tl) :
    dumpFrom tl i (d :: ds) = dumpRow (d :: ds.take 15) ++ dumpFrom tl (i + 16) (ds.drop 15) := by
  have hrow : (ds.take 15).length = min 15 ds.length := List.length_take
  have hsplit := dumpFrom_row (tl := tl) (i := i) d (ds.take 15) (ds.drop 15)
    (fun j hj hj' => dumpSeparator_eq_space (by omega) (by omega)) (dumpSeparator_eq_newline (by omega))
  rw [List.cons_append, List.take_append_drop] at hsplit
  rw [hsplit]
  by_cases hlast : ds.length ≤ 15
  · rw [List.drop_of_length_le hlast]
    rfl
  · rw [hrow, Nat.min_eq_left (by omega)]

/-- The rows of at most sixteen values each (R163). -/
def dumpRows (ds : List (BitVec 32)) : Text :=
  (List.range ((ds.length + 15) / 16)).flatMap fun r => dumpRow ((ds.drop (16 * r)).take 16)

theorem dumpRows_cons (d : BitVec 32) (ds : List (BitVec 32)) :
    dumpRows (d :: ds) = dumpRow (d :: ds.take 15) ++ dumpRows (ds.drop 15) := by
  have hcount : ((d :: ds).length + 15) / 16 = ((ds.drop 15).length + 15) / 16 + 1 := by
    rw [List.length_cons, List.length_drop]
    omega
  have hdrop (r : Nat) : (d :: ds).drop (16 * (r + 1)) = (ds.drop 15).drop (16 * r) := by
    have hpos : 16 * (r + 1) = 15 + 16 * r + 1 := by omega
    rw [hpos, List.drop_succ_cons, List.drop_drop]
  rw [dumpRows, hcount, List.range_succ_eq_map, List.flatMap_cons, List.flatMap_map, dumpRows]
  simp only [hdrop]
  rfl

/-- Induction from row to row. -/
theorem rows_induction {motive : List (BitVec 32) → Prop} (nil : motive [])
    (row : ∀ d ds, motive (ds.drop 15) → motive (d :: ds)) (ds : List (BitVec 32)) : motive ds :=
  match ds with
  | [] => nil
  | d :: ds => row d ds (rows_induction nil row (ds.drop 15))
termination_by ds.length
decreasing_by
  rw [List.length_drop, List.length_cons]
  omega

/-- The values from the start of a row on are written row by row. -/
theorem dumpFrom_eq_rows {tl i : Nat} (ds : List (BitVec 32)) (hi : i % 16 = 0) (htl : ds ≠ [] → i + ds.length = tl) :
    dumpFrom tl i ds = dumpRows ds := by
  induction ds using rows_induction generalizing i with
  | nil => rfl
  | row d ds ih =>
    have hlength : i + (ds.length + 1) = tl := htl (List.cons_ne_nil d ds)
    have hrest : ds.drop 15 ≠ [] → i + 16 + (ds.drop 15).length = tl := fun hne => by
      have hlong := List.length_pos_iff.2 hne
      rw [List.length_drop] at hlong ⊢
      omega
    rw [dumpFrom_first_row d ds hi hlength, ih (by omega) hrest, dumpRows_cons]

theorem dumpText_eq_rows (ds : List (BitVec 32)) : dumpText ds = dumpRows ds :=
  dumpFrom_eq_rows ds rfl fun _ => Nat.zero_add _

theorem count_newline_dumpRows (ds : List (BitVec 32)) : (dumpRows ds).count '\n' = (ds.length + 15) / 16 := by
  induction ds using rows_induction with
  | nil => rfl
  | row d ds ih =>
    rw [dumpRows_cons, List.count_append, count_newline_dumpRow, ih, List.length_drop, List.length_cons]
    omega

/-- The last row ends in a newline. -/
theorem getLast?_dumpRows {ds : List (BitVec 32)} (h : ds ≠ []) : (dumpRows ds).getLast? = some '\n' := by
  have hpos := List.length_pos_iff.2 h
  obtain ⟨n, hn⟩ : ∃ n, (ds.length + 15) / 16 = n + 1 := Nat.exists_eq_add_one.2 (by omega)
  rw [dumpRows, hn, List.range_succ, List.flatMap_append, List.flatMap_singleton, dumpRow, ← List.append_assoc,
    List.getLast?_concat]

/-- Settles O54: the dump is its rows, of which each ends in its only newline, and a value follows each space. -/
theorem dumpIsRowsOfSixteen : Obligations.DumpIsRowsOfSixteen := by
  intro ds
  have hspace : ¬ [' ', '\n'] <:+: dumpText ds := dumpFrom_no_space_newline _ _ ds
  rw [dumpText_eq_rows] at hspace ⊢
  exact ⟨rfl, count_newline_dumpRows ds, getLast?_dumpRows, hspace⟩

end Sys2Proof.Machine
end

section
/-! PROOFS. The assembler's lines (spec/30_encoding.md R84) and the expansion of `calc` (R85). -/

namespace Sys2Proof.Machine

variable {l : AsmLine} {i : Instr}

/-! ### One line -/

theorem assemble_of_command (hfits : l.wellFormed = true) (hcommand : lineCommand l = some i) :
    assemble l = some (encode i) := by
  rw [assemble, if_pos hfits]
  simp [lineWord, hcommand]

/-- A line whose operands fit assembles to a word that decodes to its command. -/
theorem exists_word_of_command (hfits : l.wellFormed = true) (hcommand : lineCommand l = some i) :
    ∃ w, assemble l = some w ∧ decode w = .command i :=
  ⟨encode i, assemble_of_command hfits hcommand, decode_encode i⟩

theorem fitsField_iff {n : Nat} {x : Int} : fitsField n x = true ↔ 0 ≤ x ∧ x < 2 ^ n := decide_eq_true_iff

theorem toNat_ofInt_eq_emod (n : Nat) (x : Int) : ((BitVec.ofInt n x).toNat : Int) = x % 2 ^ n := by
  rw [BitVec.toNat_ofInt, Int.toNat_of_nonneg (Int.emod_nonneg _ (by positivity))]
  norm_cast

/-- Settles O59: each clause is `exists_word_of_command` at its line, with the value of the field. -/
theorem assembledLinesDecode : Obligations.AssembledLinesDecode := by
  refine ⟨⟨rfl, rfl, rfl, rfl, rfl, rfl⟩, fun l i => exists_word_of_command,
    fun poly width hpoly hpoly' hwidth hwidth' => ?_, fun value => ?_, fun l hfits => by simp [assemble, hfits]⟩
  · have hfits : (AsmLine.config poly width).wellFormed = true :=
      Bool.and_eq_true_iff.2 ⟨fitsField_iff.2 ⟨hpoly, hpoly'⟩, fitsField_iff.2 ⟨hwidth, hwidth'⟩⟩
    obtain ⟨w, hw, hd⟩ := exists_word_of_command hfits rfl
    exact ⟨w, _, _, hw, hd, (toNat_ofInt_eq_emod 16 width).trans (Int.emod_eq_of_lt hwidth hwidth'),
      (toNat_ofInt_eq_emod 32 poly).trans (Int.emod_eq_of_lt hpoly hpoly')⟩
  · obtain ⟨w, hw, hd⟩ := exists_word_of_command (l := .elemInt value) rfl rfl
    exact ⟨w, _, hw, hd, toNat_ofInt_eq_emod 32 value⟩

/-! ### The lines of `calc` -/

/-- Lines that fit and spell commands assemble to the commands' words. -/
theorem mapM_assemble {ls : List AsmLine} {is : List Instr} (hfits : ∀ l ∈ ls, l.wellFormed = true)
    (hcommands : ls.map lineCommand = is.map some) : ls.mapM assemble = some (is.map encode) := by
  induction ls generalizing is with
  | nil =>
    obtain rfl : is = [] := by simpa using hcommands.symm
    rfl
  | cons l ls ih =>
    cases is with
    | nil => simp at hcommands
    | cons i is =>
      obtain ⟨hi, his⟩ := List.cons.inj hcommands
      obtain ⟨hl, hls⟩ := List.forall_mem_cons.1 hfits
      rw [List.mapM_cons, assemble_of_command hl hi, ih hls his]
      rfl

/-- An element's line fits, a code point being below 2^32, and spells the command the driver sends the element as. -/
theorem elementLine_command (e : HostElem) :
    (elementLine e).wellFormed = true ∧ lineCommand (elementLine e) = some (elementCommand e) := by
  rcases e with x | (_ | ⟨c, _ | ⟨d, cs⟩⟩) | _
  case text.cons.nil =>
    have hlt : c.toNat < 2 ^ 32 := c.val.toNat_lt
    refine ⟨fitsField_iff.2 ⟨by omega, by omega⟩, ?_⟩
    rw [elementLine, lineCommand, elementCommand, BitVec.ofInt_natCast]
  all_goals exact ⟨rfl, rfl⟩

/-- Settles O60: line by line the expansion spells the driver's commands. -/
theorem calcExpandsToDriverCommands : Obligations.CalcExpandsToDriverCommands := by
  intro tl input k hk hk'
  refine ⟨_, if_pos ⟨hk, hk'⟩, mapM_assemble (fun l hl => ?_) ?_⟩
  · simp only [expand, List.mem_append, List.mem_cons, List.mem_map, List.not_mem_nil, or_false] at hl
    rcases hl with (rfl | ⟨e, _, rfl⟩) | rfl
    · exact fitsField_iff.2 ⟨hk, hk'⟩
    · exact (elementLine_command e).1
    · rfl
  · have hbegin : lineCommand (.calcBegin k) = some (.calcBegin (BitVec.ofInt 32 k)) := rfl
    have helem (e : HostElem) : lineCommand (elementLine e) = some (elementCommand e) := (elementLine_command e).2
    have hend : lineCommand .calcEnd = some .calcEnd := rfl
    simp [expand, hbegin, helem, hend]

end Sys2Proof.Machine
end
